-- ==== Sys2Proof/Word.lean ====
section
/-! DEFINITION. The word types of the block (00_scope.md R16, R19; 30_encoding.md R84, R86, R91)
and the two instruction formats. -/

namespace Sys2Proof

/-- One of the five frame bytes (42_checksum_frame.md R172), or one byte of a word's written form. -/
abbrev Byte := BitVec 8

/-- A 40-bit frame: `shreg` and `res_frame` (00_scope.md R16). -/
abbrev Frame := BitVec 40

/-- A register of the host's view, 32 bits (20_memory.md R61). -/
abbrev Reg32 := BitVec 32

/-- A count of ticks as the phase counter holds it, 16 bits (00_scope.md R16). -/
abbrev Ticks := BitVec 16

/-- The host's input word `{start, rsel[1:0]}` of one clock cycle (30_encoding.md R91). -/
abbrev HostWord := BitVec 3

/-- An LTU command word: `op` [18:17], `lvl` [16], `arg` [15:0] (30_encoding.md R86). -/
abbrev LtuWord := BitVec 19

/-- A line level: `true` is logic high, 1 (00_scope.md R19). -/
abbrev Level := Bool

/-- The two formats of spec/opcode_table.json (30_encoding.md R99). -/
inductive WordFormat where
  /-- the 3-bit host word, one per clock cycle -/
  | host
  /-- the 19-bit LTU command word -/
  | ltu
  deriving DecidableEq, Repr

end Sys2Proof
end

