-- ==== Sys2Proof/Config.lean ====
section
/-! DEFINITION. What is fixed for one machine (the elaboration-time parameters, 00_scope.md R5 to R14)
and what the outside world is free to do (00_scope.md R17). -/

namespace Sys2Proof

/-- The parameters of the block (00_scope.md R5): fixed when the block is built, changed by nothing that runs.
Counts, so natural numbers; `Params.legal` gives the ranges. DESIGN CHOICE (log entry 5): a state carries the
parameters of its machine, so that every statement about all states is about all parameters. -/
structure Params where
  /-- `CLK_PER_US`, clock cycles in a tick (R6; OPEN in the spec) -/
  clkPerUs : Nat
  /-- `T_START_LOW` (R8) -/
  tStartLow : Nat
  /-- `T_REL_HIGH` (R9) -/
  tRelHigh : Nat
  /-- `T_ACK_TO` (R10) -/
  tAckTo : Nat
  /-- `T_BIT0_LOW_TO` (R11) -/
  tBit0LowTo : Nat
  /-- `T_BIT_TO` (R12) -/
  tBitTo : Nat
  /-- `T_CAP` (R13) -/
  tCap : Nat
  /-- `T_THRESH` (R14) -/
  tThresh : Nat
  deriving DecidableEq, Repr

/-- The spec's defaults (R8 to R14). `CLK_PER_US` is OPEN (R6): 1 here is a DESIGN CHOICE (log entry 5), the value the
spec's own vectors use where cycles matter (95_test_vectors.md section 0); no statement rests on it. -/
def Params.default : Params where
  clkPerUs := 1
  tStartLow := 20000
  tRelHigh := 30
  tAckTo := 100
  tBit0LowTo := 100
  tBitTo := 70
  tCap := 120
  tThresh := 40

/-- Where the level of the data line comes from in one cycle (00_scope.md R27). -/
inductive LineSource where
  /-- the pad as R27 describes it: a driven line has the level the block drives, a released line has `level`,
  which the sensor and the pull-up decide -/
  | environment (level : Level)
  /-- the line has `level` whatever the block drives: a line held by a fault (40_line_transport.md R114), contention
  in START_HIGH or an open-drain pad (70_reset_and_hazards.md R249). Log entry 13. -/
  | overridden (level : Level)
  deriving DecidableEq, Repr, Inhabited

/-- The values at the block's input ports in one clock cycle (00_scope.md R26). -/
structure CycleInput where
  /-- synchronous reset, active high (70_reset_and_hazards.md R240) -/
  rst : Bool
  /-- READ strobe, level-sampled (43_host_interface.md R192) -/
  start : Bool
  /-- register select of the read port (20_memory.md R61) -/
  rsel : BitVec 2
  /-- the source of `line_in` (10_state.md R38) -/
  line : LineSource
  deriving DecidableEq, Repr, Inhabited

/-- The port values of a cycle for which a state lists none: a free value for each cycle (00_scope.md R17, R18;
93_implementation_defined.md I9). Nothing in the model can tell what it is. Log entry 6. -/
opaque Config.freeInput : Nat → CycleInput

end Sys2Proof
end

