-- ==== Sys2Proof/Syntax.lean ====
section
/-! DEFINITION. The instructions: one constructor for each row of spec/opcode_table.json. -/

namespace Sys2Proof

/-- The host words of a clock cycle (30_encoding.md R91) and the LTU commands (30_encoding.md R87). -/
inductive Instr where
  /-- READ (43_host_interface.md R190). `rsel` does not matter to the command; it still selects what the read port
  shows in that cycle (20_memory.md R61). -/
  | read (rsel : BitVec 2)
  /-- RD_STATUS (R197) -/
  | rdStatus
  /-- RD_READING (R198) -/
  | rdReading
  /-- RD_FRAME0 (R199) -/
  | rdFrame0
  /-- RD_FRAME1 (R200) -/
  | rdFrame1
  /-- RELEASE (40_line_transport.md R113) -/
  | release
  /-- DRIVE_LOW d (R114) -/
  | driveLow (d : Ticks)
  /-- DRIVE_HIGH d (R115) -/
  | driveHigh (d : Ticks)
  /-- WAIT_LOW t (R116) -/
  | waitLow (t : Ticks)
  /-- WAIT_HIGH t (R117) -/
  | waitHigh (t : Ticks)
  /-- MEASURE_HIGH c (R118) -/
  | measureHigh (c : Ticks)
  deriving DecidableEq, Repr

/-- The format each instruction's word has (30_encoding.md R99). -/
def Instr.format : Instr → WordFormat
  | .read _ => .host
  | .rdStatus => .host
  | .rdReading => .host
  | .rdFrame0 => .host
  | .rdFrame1 => .host
  | .release => .ltu
  | .driveLow _ => .ltu
  | .driveHigh _ => .ltu
  | .waitLow _ => .ltu
  | .waitHigh _ => .ltu
  | .measureHigh _ => .ltu

end Sys2Proof
end

