-- ==== Sys2Proof/WellFormed.lean ====
section
/-! DEFINITION. Which instructions and which parameters have a meaning (30_encoding.md R90; 00_scope.md R6 to R14). -/

namespace Sys2Proof

/-- An instruction that some word stands for: an operand that 30_encoding.md R90 reserves is refused.
A wait has no reserved operand (log entry 11). -/
def Instr.wf : Instr → Bool
  | .read _ => true
  | .rdStatus => true
  | .rdReading => true
  | .rdFrame0 => true
  | .rdFrame1 => true
  | .release => true
  | .driveLow d => decide (d ≠ 0#16)
  | .driveHigh d => decide (d ≠ 0#16)
  | .waitLow _ => true
  | .waitHigh _ => true
  | .measureHigh c => decide (2 ≤ c.toNat)

/-- Every parameter in its legal range (00_scope.md R6 to R14). -/
def Params.legal (p : Params) : Bool :=
  decide (1 ≤ p.clkPerUs)
    && (decide (18000 ≤ p.tStartLow) && decide (p.tStartLow ≤ 65535))
    && (decide (20 ≤ p.tRelHigh) && decide (p.tRelHigh ≤ 40))
    && decide (p.tAckTo ≤ 65534)
    && decide (p.tBit0LowTo ≤ 65534)
    && decide (p.tBitTo ≤ 65534)
    && (decide (2 ≤ p.tCap) && decide (p.tCap ≤ 65535))
    && decide (p.tThresh ≤ 65535)

end Sys2Proof
end

