-- ==== Sys2Proof/Decode.lean ====
section
/-! DEFINITION. Decoding: total on any bytes, rejecting by name; then the encoder, written from the same tables
(30_encoding.md R86 to R91). The block stores no words (20_memory.md R64): the byte layout of a written word is
log entry 3. -/

namespace Sys2Proof

/-- Concatenation `{x, y}` to `n` bits, `x` in the more significant positions (00_scope.md R19). -/
def cat {a b : Nat} (n : Nat) (x : BitVec a) (y : BitVec b) (h : a + b = n := by rfl) : BitVec n :=
  (x ++ y).cast h

/-- Why a word is refused (30_encoding.md R90, 93_implementation_defined.md I4). -/
inductive DecodeError where
  /-- fewer bytes than the format has -/
  | truncated
  /-- a bit above the word's width is 1 -/
  | strayBits
  /-- RELEASE with `lvl` or `arg` not 0 -/
  | reservedRelease
  /-- `op` = 11 with `lvl` = 0 -/
  | reservedMeasureLow
  /-- DRIVE with `arg` = 0 -/
  | reservedDrive
  /-- MEASURE_HIGH with `arg` < 2 -/
  | reservedCeiling
  deriving DecidableEq, Repr

/-- The host word `{start, rsel[1:0]}`: bit 2 is `start` (R91), and with `start` = 0 the register read is the one
`rsel` selects (20_memory.md R62). No host word is reserved. -/
def decodeHost (w : HostWord) : Instr :=
  let rsel := w.extractLsb' 0 2
  if w.getLsbD 2 then .read rsel
  else if rsel = 0#2 then .rdStatus
  else if rsel = 1#2 then .rdReading
  else if rsel = 2#2 then .rdFrame0
  else .rdFrame1

/-- The LTU command word (R86, R87), less the reserved words of R90. -/
def decodeLtu (w : LtuWord) : Except DecodeError Instr :=
  let op := w.extractLsb' 17 2
  let lvl := w.getLsbD 16
  let arg := w.extractLsb' 0 16
  if op = 0#2 then
    if lvl = false ∧ arg = 0#16 then .ok .release else .error .reservedRelease
  else if op = 1#2 then
    if arg = 0#16 then .error .reservedDrive
    else .ok (if lvl then .driveHigh arg else .driveLow arg)
  else if op = 2#2 then .ok (if lvl then .waitHigh arg else .waitLow arg)
  else if lvl = false then .error .reservedMeasureLow
  else if arg.toNat < 2 then .error .reservedCeiling
  else .ok (.measureHigh arg)

/-- The first instruction of a byte list and the bytes after it. A host word is one byte, an LTU word three bytes,
least significant first; the bits above the word are 0 (log entry 3). -/
def decode : WordFormat → List Byte → Except DecodeError (Instr × List Byte)
  | .host, b :: rest =>
    if b.extractLsb' 3 5 = 0#5 then .ok (decodeHost (b.extractLsb' 0 3), rest) else .error .strayBits
  | .host, [] => .error .truncated
  | .ltu, b0 :: b1 :: b2 :: rest =>
    if b2.extractLsb' 3 5 = 0#5 then
      match decodeLtu (cat 19 (cat 11 (b2.extractLsb' 0 3) b1) b0) with
      | .ok i => .ok (i, rest)
      | .error e => .error e
    else .error .strayBits
  | .ltu, _ => .error .truncated

/-- The host word of a READ or a register read (R91). -/
def hostFields (start : Bool) (rsel : BitVec 2) : HostWord := cat 3 (BitVec.ofBool start) rsel

/-- The LTU word of three fields (R86). -/
def ltuFields (op : BitVec 2) (lvl : Bool) (arg : Ticks) : LtuWord :=
  cat 19 (cat 3 op (BitVec.ofBool lvl)) arg

/-- The one byte of a host word. -/
def hostBytes (w : HostWord) : List Byte := [cat 8 0#5 w]

/-- The three bytes of an LTU word. -/
def ltuBytes (w : LtuWord) : List Byte :=
  [w.extractLsb' 0 8, w.extractLsb' 8 8, cat 8 0#5 (w.extractLsb' 16 3)]

/-- The bytes of an instruction's word (R87, R91). -/
def encode : Instr → List Byte
  | .read rsel => hostBytes (hostFields true rsel)
  | .rdStatus => hostBytes (hostFields false 0#2)
  | .rdReading => hostBytes (hostFields false 1#2)
  | .rdFrame0 => hostBytes (hostFields false 2#2)
  | .rdFrame1 => hostBytes (hostFields false 3#2)
  | .release => ltuBytes (ltuFields 0#2 false 0#16)
  | .driveLow d => ltuBytes (ltuFields 1#2 false d)
  | .driveHigh d => ltuBytes (ltuFields 1#2 true d)
  | .waitLow t => ltuBytes (ltuFields 2#2 false t)
  | .waitHigh t => ltuBytes (ltuFields 2#2 true t)
  | .measureHigh c => ltuBytes (ltuFields 3#2 true c)

/-- An instruction, or the reason R90 reserves its word. -/
def Instr.checked (i : Instr) : Except DecodeError Instr :=
  match i with
  | .read _ => .ok i
  | .rdStatus => .ok i
  | .rdReading => .ok i
  | .rdFrame0 => .ok i
  | .rdFrame1 => .ok i
  | .release => .ok i
  | .driveLow d => if d = 0#16 then .error .reservedDrive else .ok i
  | .driveHigh d => if d = 0#16 then .error .reservedDrive else .ok i
  | .waitLow _ => .ok i
  | .waitHigh _ => .ok i
  | .measureHigh c => if c.toNat < 2 then .error .reservedCeiling else .ok i

/-- A table row of at most one byte is a host word, a longer one an LTU word (log entry 3). -/
def formatOfBits (nbits : Nat) : WordFormat := if nbits ≤ 8 then .host else .ltu

/-- The bytes of the number `w`, `nbits` bits of it given and 0 above them, first byte first. -/
def bytesOfNat (nbits w : Nat) : List Byte :=
  match formatOfBits nbits with
  | .host => [BitVec.ofNat 8 (w % 2 ^ nbits)]
  | .ltu =>
    [BitVec.ofNat 8 (w % 2 ^ nbits), BitVec.ofNat 8 (w % 2 ^ nbits / 256), BitVec.ofNat 8 (w % 2 ^ nbits / 65536)]

/-- What the decoder reads from an opcode-table word. -/
def decodeTableWord (nbits w : Nat) : Option Instr :=
  match decode (formatOfBits nbits) (bytesOfNat nbits w) with
  | .ok (i, _) => some i
  | .error _ => none

end Sys2Proof
end

