-- ==== Sys2Proof/Machine/State.lean ====
section
/-! DEFINITION. The state of the block (10_state.md), the reasons a step can stop, and the state after reset. -/

namespace Sys2Proof.Machine

/-- The sequencer states of 30_encoding.md R80, and the illegal codes 11 to 15 of R81. -/
inductive SeqState where
  | idle
  | startLow
  | startHigh
  | awaitAck
  | ackLow
  | bitLow
  | bitHigh
  | bitMeas
  | check
  | done
  | failed
  /-- code `11 + k` (R81) -/
  | illegal (k : Fin 5)
  deriving DecidableEq, Repr

/-- The outcome codes of 30_encoding.md R82, and the reserved codes 5 to 7 of R83. -/
inductive OutcomeTag where
  | none
  | success
  | handshakeTimeout
  | bitTimeout
  | checksumMismatch
  /-- code `5 + k` (R83); no rule writes one (log entry 9) -/
  | reserved (k : Fin 3)
  deriving DecidableEq, Repr

/-- The block has no trap (93_implementation_defined.md section 1), so there is no fault: log entry 20. -/
inductive Fault where
  deriving DecidableEq, Repr

/-- Why the model does not go on. -/
inductive Refusal where
  /-- raised by an arm of exec that has no meaning yet; safe -/
  | notModelled (mnemonic : String)
  /-- raised by a cycle whose LTU command is a word 30_encoding.md R90 reserves: 'A model should refuse a reserved
  word'. No legal parameters lead to one. Safe. -/
  | reservedLtuWord (why : DecodeError)
  /-- raised by `State.elaborate` and `State.takeIn` for parameters outside their ranges (93_implementation_defined.md I3);
  safe -/
  | illegalParameters
  /-- raised by `State.takeIn` for a state that holds a code 11 to 15 in `st` (30_encoding.md R81,
  93_implementation_defined.md I5); safe -/
  | illegalStateCode
  /-- raised by `State.takeIn` for a state that holds a code 5 to 7 in `outcome` (30_encoding.md R83,
  93_implementation_defined.md I6); safe -/
  | reservedOutcomeCode
  deriving DecidableEq, Repr

/-- The registers of 10_state.md R32 to R40 (R42: the block has no other), then the model's own fields. -/
structure State where
  /-- the machine's parameters, which no step changes (00_scope.md R5; log entry 5) -/
  cfg : Params
  /-- `st` (R32) -/
  st : SeqState
  /-- `bidx`, bits captured so far (R34) -/
  bidx : BitVec 6
  /-- `shreg`, the frame shift register (R35) -/
  shreg : Frame
  /-- `tcnt`, the phase counter (R36) -/
  tcnt : Ticks
  /-- `presc`, the prescaler (R37); `prescWidth` gives its width -/
  presc : Nat
  /-- `sync1`, first synchroniser stage (R38) -/
  sync1 : Level
  /-- `sync2`, second stage: the line sample (R38) -/
  sync2 : Level
  /-- `outcome` (R39) -/
  outcome : OutcomeTag
  /-- `res_frame` (R40) -/
  resFrame : Frame
  /-- what `rdata` showed in the cycle that just ended, as the host sampled it (30_encoding.md R98; log entry 7) -/
  rdata : Reg32
  /-- the port values of this cycle and the next ones (log entry 6) -/
  inputs : List CycleInput
  /-- which free port values come next when `inputs` is empty (log entry 6) -/
  cycle : Nat
  deriving DecidableEq, Repr

/-- The block with parameters `p` right after reset (10_state.md R43). -/
def State.afterReset (p : Params) : State where
  cfg := p
  st := .idle
  bidx := 0#6
  shreg := 0#40
  tcnt := 0#16
  presc := 0
  sync1 := true
  sync2 := true
  outcome := .none
  resFrame := 0#40
  rdata := 0#32
  inputs := []
  cycle := 0

/-- Building the block: illegal parameters are refused (93_implementation_defined.md I3; log entry 22). -/
def State.elaborate (p : Params) : Except Refusal State :=
  if p.legal then .ok (State.afterReset p) else .error .illegalParameters

/-- The block with the spec's default parameters, right after reset (70_reset_and_hazards.md R240). -/
def State.reset : State := State.afterReset Params.default

end Sys2Proof.Machine
end

