-- ==== Sys2Proof/Machine/Codes.lean ====
section
/-! DEFINITION. The numeric codes of `st` and `outcome` (30_encoding.md R80 to R83) and which states are busy. -/

namespace Sys2Proof.Machine

/-- The 4-bit code of a sequencer state (30_encoding.md R80, R81). -/
def seqCode : SeqState → BitVec 4
  | .idle => 0#4
  | .startLow => 1#4
  | .startHigh => 2#4
  | .awaitAck => 3#4
  | .ackLow => 4#4
  | .bitLow => 5#4
  | .bitHigh => 6#4
  | .bitMeas => 7#4
  | .check => 8#4
  | .done => 9#4
  | .failed => 10#4
  | .illegal k => BitVec.ofNat 4 (11 + k.val)

/-- The 3-bit code of an outcome (30_encoding.md R82, R83). -/
def outcomeCode : OutcomeTag → BitVec 3
  | .none => 0#3
  | .success => 1#3
  | .handshakeTimeout => 2#3
  | .bitTimeout => 3#3
  | .checksumMismatch => 4#3
  | .reserved k => BitVec.ofNat 3 (5 + k.val)

/-- The busy states, START_LOW to CHECK (30_encoding.md R80, 10_state.md R41). -/
def isBusy : SeqState → Bool
  | .idle => false
  | .startLow => true
  | .startHigh => true
  | .awaitAck => true
  | .ackLow => true
  | .bitLow => true
  | .bitHigh => true
  | .bitMeas => true
  | .check => true
  | .done => false
  | .failed => false
  | .illegal _ => false

/-- The terminal states DONE and FAILED (60_exceptions.md R216). -/
def isTerminal : SeqState → Bool
  | .idle => false
  | .startLow => false
  | .startHigh => false
  | .awaitAck => false
  | .ackLow => false
  | .bitLow => false
  | .bitHigh => false
  | .bitMeas => false
  | .check => false
  | .done => true
  | .failed => true
  | .illegal _ => false

/-- The states a READ is accepted in: IDLE, DONE and FAILED (43_host_interface.md R190). -/
def acceptsRead (st : SeqState) : Bool := decide (st = .idle) || isTerminal st

/-- The illegal codes 11 to 15 (30_encoding.md R81). -/
def isIllegal : SeqState → Bool
  | .idle => false
  | .startLow => false
  | .startHigh => false
  | .awaitAck => false
  | .ackLow => false
  | .bitLow => false
  | .bitHigh => false
  | .bitMeas => false
  | .check => false
  | .done => false
  | .failed => false
  | .illegal _ => true

/-- The reserved outcome codes 5 to 7 (30_encoding.md R83). -/
def isReservedOutcome : OutcomeTag → Bool
  | .none => false
  | .success => false
  | .handshakeTimeout => false
  | .bitTimeout => false
  | .checksumMismatch => false
  | .reserved _ => true

/-- The states a model takes in: one with illegal parameters, an illegal state code or a reserved outcome code is refused,
by the name of what is wrong (93_implementation_defined.md I3, I5, I6; 30_encoding.md R81, R83). A step does not ask:
what the block does in a state with an illegal code is R81's recovery (log entry 8). -/
def State.takeIn (s : State) : Except Refusal State :=
  if s.cfg.legal = false then .error .illegalParameters
  else if isIllegal s.st then .error .illegalStateCode
  else if isReservedOutcome s.outcome then .error .reservedOutcomeCode
  else .ok s

end Sys2Proof.Machine
end

