-- ==== Sys2Proof/Machine/Operands.lean ====
section
/-! DEFINITION. The operands of the block: the LTU command of each sequencer state (30_encoding.md R88, R89), the bytes of
a frame, the decision of one bit and the shift that takes it in (42_checksum_frame.md R170 to R173). -/

namespace Sys2Proof.Machine

/-- `arg = zext_16(P)` (30_encoding.md R88). -/
def tickArg (p : Nat) : Ticks := BitVec.ofNat 16 p

/-- The timeout of BIT_LOW: `T_BIT0_LOW_TO` for bit 0, `T_BIT_TO` after it (41_decoder_sequence.md R145). -/
def bitLowTimeout (cfg : Params) (bidx : BitVec 6) : Nat :=
  if bidx = 0#6 then cfg.tBit0LowTo else cfg.tBitTo

/-- The LTU word of a sequencer state: the table of 30_encoding.md R89. -/
def commandWord (cfg : Params) (bidx : BitVec 6) : SeqState → LtuWord
  | .idle => ltuFields 0#2 false 0#16
  | .startLow => ltuFields 1#2 false (tickArg cfg.tStartLow)
  | .startHigh => ltuFields 1#2 true (tickArg cfg.tRelHigh)
  | .awaitAck => ltuFields 2#2 false (tickArg cfg.tAckTo)
  | .ackLow => ltuFields 2#2 true (tickArg cfg.tAckTo)
  | .bitLow => ltuFields 2#2 false (tickArg (bitLowTimeout cfg bidx))
  | .bitHigh => ltuFields 2#2 true (tickArg cfg.tBitTo)
  | .bitMeas => ltuFields 3#2 true (tickArg cfg.tCap)
  | .check => ltuFields 0#2 false 0#16
  | .done => ltuFields 0#2 false 0#16
  | .failed => ltuFields 0#2 false 0#16
  | .illegal _ => ltuFields 0#2 false 0#16

/-- The current LTU command, as the unit decodes it (30_encoding.md R86, R89). -/
def currentCommand (s : State) : Except DecodeError Instr :=
  decodeLtu (commandWord s.cfg s.bidx s.st)

/-- `byte(v, k) = v[39 - 8k : 32 - 8k]`, k = 0 to 4 (42_checksum_frame.md R172; above 4: log entry 24). -/
def frameByte (v : Frame) (k : Nat) : Byte := v.extractLsb' (32 - 8 * k) 8

/-- `decideBit(n)`: 1 exactly when n > `T_THRESH` (42_checksum_frame.md R170). -/
def decideBit (cfg : Params) (n : Ticks) : Bool := decide (cfg.tThresh < n.toNat)

/-- `{shreg[38:0], b}` (42_checksum_frame.md R171). -/
def shiftIn (v : Frame) (b : Bool) : Frame := cat 40 (v.extractLsb' 0 39) (BitVec.ofBool b)

/-- The sum of the four payload bytes, mod 256 (42_checksum_frame.md R173). -/
def payloadSum (v : Frame) : Byte := frameByte v 0 + frameByte v 1 + frameByte v 2 + frameByte v 3

/-- The checksum test (42_checksum_frame.md R173). -/
def checksumOk (v : Frame) : Bool := decide (payloadSum v = frameByte v 4)

end Sys2Proof.Machine
end

