-- ==== Sys2Proof/Machine/Flags.lean ====
section
/-! DEFINITION. The four flags (10_state.md R41) and the register view of the host (20_memory.md R61, R62;
30_encoding.md R92 to R95). -/

namespace Sys2Proof.Machine

/-- BUSY, and the port `busy` (10_state.md R41, 43_host_interface.md R195). -/
def busyFlag (s : State) : Bool := isBusy s.st

/-- DONE, and the port `done` (10_state.md R41, 43_host_interface.md R196). -/
def doneFlag (s : State) : Bool := isTerminal s.st

/-- FRAC_NZ: a fractional byte of the result is not 0 (10_state.md R41, 42_checksum_frame.md R177). -/
def fracNzFlag (s : State) : Bool :=
  decide (frameByte s.resFrame 1 ≠ 0#8) || decide (frameByte s.resFrame 3 ≠ 0#8)

/-- STATUS: `zext_32({FRAC_NZ, OUTCOME[2:0], DONE, BUSY})` (30_encoding.md R92, 43_host_interface.md R197). -/
def statusReg (s : State) : Reg32 :=
  cat 32 0#26
    (cat 6 (cat 5 (cat 4 (BitVec.ofBool (fracNzFlag s)) (outcomeCode s.outcome)) (BitVec.ofBool (doneFlag s)))
      (BitVec.ofBool (busyFlag s)))

/-- READING: temperature in [15:8], humidity in [7:0] (30_encoding.md R93, 43_host_interface.md R198). -/
def readingReg (s : State) : Reg32 := cat 32 0#16 (cat 16 (frameByte s.resFrame 2) (frameByte s.resFrame 0))

/-- FRAME0: frame byte k in [8k+7:8k] (30_encoding.md R94, 43_host_interface.md R199). -/
def frame0Reg (s : State) : Reg32 :=
  cat 32 (cat 24 (cat 16 (frameByte s.resFrame 3) (frameByte s.resFrame 2)) (frameByte s.resFrame 1))
    (frameByte s.resFrame 0)

/-- FRAME1: the checksum byte (30_encoding.md R95, 43_host_interface.md R200). -/
def frame1Reg (s : State) : Reg32 := cat 32 0#24 (frameByte s.resFrame 4)

/-- `REG(rsel)`, the register map (20_memory.md R62). -/
def regView (s : State) (rsel : BitVec 2) : Reg32 :=
  if rsel = 0#2 then statusReg s
  else if rsel = 1#2 then readingReg s
  else if rsel = 2#2 then frame0Reg s
  else frame1Reg s

end Sys2Proof.Machine
end

