-- ==== Sys2Proof/Machine/Ltu.lean ====
section
/-! DEFINITION. The Line Transport unit: what one tick of each command gives, and what each command does to the pad
(40_line_transport.md). -/

namespace Sys2Proof.Machine

/-- The result of one tick of a command (40_line_transport.md R110). -/
inductive LtuResult where
  /-- the command goes on, and the counter takes this value -/
  | run (tcntRun : Ticks)
  | ok
  | timeout
  /-- a measured duration, and whether a low sample ended it -/
  | meas (n : Ticks) (endedLow : Bool)
  deriving DecidableEq, Repr

/-- RELEASE never completes; the counter holds (R113). -/
def ltuRelease (tcnt : Ticks) : LtuResult := .run tcnt

/-- DRIVE_LOW d and DRIVE_HIGH d: no sample is read (R114, R115). -/
def ltuDrive (d tcnt : Ticks) : LtuResult :=
  if tcnt + 1#16 = d then .ok else .run (tcnt + 1#16)

/-- WAIT for `level` with bound `t`: success beats timeout (R116, R117). -/
def ltuWait (level : Level) (t tcnt : Ticks) (sample : Level) : LtuResult :=
  if sample = level then .ok
  else if tcnt = t then .timeout
  else .run (tcnt + 1#16)

/-- MEASURE_HIGH c: a low sample beats the ceiling (R118). -/
def ltuMeasure (c tcnt : Ticks) (sample : Level) : LtuResult :=
  if sample = false then .meas tcnt true
  else if tcnt + 1#16 = c then .meas c false
  else .run (tcnt + 1#16)

/-- `ltuStep(cmd, tcnt, s)` (R110). DESIGN CHOICE (log entry 24): a host word is no LTU command, and
here it times nothing, as RELEASE; an operand that 30_encoding.md R90 reserves goes through its command's formula. No cycle
performs either. -/
def ltuStep (cmd : Instr) (tcnt : Ticks) (sample : Level) : LtuResult :=
  match cmd with
  | .read _ => ltuRelease tcnt
  | .rdStatus => ltuRelease tcnt
  | .rdReading => ltuRelease tcnt
  | .rdFrame0 => ltuRelease tcnt
  | .rdFrame1 => ltuRelease tcnt
  | .release => ltuRelease tcnt
  | .driveLow d => ltuDrive d tcnt
  | .driveHigh d => ltuDrive d tcnt
  | .waitLow t => ltuWait false t tcnt sample
  | .waitHigh t => ltuWait true t tcnt sample
  | .measureHigh c => ltuMeasure c tcnt sample

/-- One command from the counter value `tcnt` over a list of samples, one a tick: its result and the ticks it took, or
nothing if the samples end first (R119). -/
def ltuRun (cmd : Instr) : Ticks → List Level → Option (LtuResult × Nat)
  | _, [] => none
  | tcnt, x :: xs =>
    match ltuStep cmd tcnt x with
    | .run c => (ltuRun cmd c xs).map (fun p => (p.1, p.2 + 1))
    | .ok => some (.ok, 1)
    | .timeout => some (.timeout, 1)
    | .meas n e => some (.meas n e, 1)

/-- `line_oe` of a command (R111); 0 for a host word (DESIGN CHOICE, log entry 24). -/
def padEnable : Instr → Bool
  | .read _ => false
  | .rdStatus => false
  | .rdReading => false
  | .rdFrame0 => false
  | .rdFrame1 => false
  | .release => false
  | .driveLow _ => true
  | .driveHigh _ => true
  | .waitLow _ => false
  | .waitHigh _ => false
  | .measureHigh _ => false

/-- `line_out` of a command (R111); 0 for a host word (DESIGN CHOICE, log entry 24). -/
def padOut : Instr → Level
  | .read _ => false
  | .rdStatus => false
  | .rdReading => false
  | .rdFrame0 => false
  | .rdFrame1 => false
  | .release => false
  | .driveLow _ => false
  | .driveHigh _ => true
  | .waitLow _ => false
  | .waitHigh _ => false
  | .measureHigh _ => false

/-- The port `line_oe`: combinational in the current command (R111). DESIGN CHOICE (log entry 23): with illegal parameters
the state's command word can be one that 30_encoding.md R90 reserves; the spec gives no pad output for it, and the model
shows a released line, `line_oe` = 0. -/
def lineOe (s : State) : Bool :=
  match currentCommand s with
  | .ok cmd => padEnable cmd
  | .error _ => false

/-- The port `line_out` (R111). DESIGN CHOICE (log entry 23): 0 where the state's command word is reserved. -/
def lineOut (s : State) : Level :=
  match currentCommand s with
  | .ok cmd => padOut cmd
  | .error _ => false

/-- `line_in`: the level of the line while the block performs `cmd` (00_scope.md R27; log entry 13). -/
def lineLevel (cmd : Instr) : LineSource → Level
  | .environment level => if padEnable cmd then padOut cmd else level
  | .overridden level => level

end Sys2Proof.Machine
end

