-- ==== Sys2Proof/Machine/Ops.lean ====
section
/-! DEFINITION. The shared operations: the ports of a cycle, the failure path (the block's exception entry,
60_exceptions.md R213), acceptance of a READ (its return, R217), reset, the prescaler and the synchroniser. -/

namespace Sys2Proof.Machine

/-- The port values of this cycle (log entry 6). -/
def portOf (s : State) : CycleInput :=
  match s.inputs with
  | p :: _ => p
  | [] => Config.freeInput s.cycle

/-- The three failure kinds (60_exceptions.md R210). -/
inductive FailureKind where
  | handshakeTimeout
  | bitTimeout
  | checksumMismatch
  deriving DecidableEq, Repr

/-- The outcome a failure records (60_exceptions.md R210). -/
def failureTag : FailureKind → OutcomeTag
  | .handshakeTimeout => .handshakeTimeout
  | .bitTimeout => .bitTimeout
  | .checksumMismatch => .checksumMismatch

/-- `raise Failure(kind)`, the single failure path: `bidx` and `res_frame` keep their values (60_exceptions.md R213). -/
def raiseFailure (kind : FailureKind) (s : State) : State :=
  { s with st := .failed, outcome := failureTag kind, tcnt := 0#16, shreg := 0#40 }

/-- Acceptance of a READ: a new transaction, from IDLE or out of a terminal state (43_host_interface.md R190,
60_exceptions.md R217). -/
def acceptRead (s : State) : State :=
  { s with
    st := .startLow, tcnt := 0#16, bidx := 0#6, shreg := 0#40
    outcome := .none, resFrame := 0#40, presc := 0 }

/-- `accept`, less its condition on `rst` (43_host_interface.md R190). -/
def accepts (start : Bool) (s : State) : Bool := start && acceptsRead s.st

/-- The width of the prescaler: the ceiling of log2 `CLK_PER_US`, at least 1 (10_state.md R37; log entry 14). -/
def prescWidth (clkPerUs : Nat) : Nat := Nat.log2 (clkPerUs - 1) + 1

/-- `tick` (10_state.md R37). -/
def isTick (s : State) : Bool := decide (s.presc = s.cfg.clkPerUs - 1)

/-- The prescaler's next value when there is no reset (10_state.md R37). -/
def prescNext (accept : Bool) (s : State) : Nat :=
  if accept then 0
  else if isTick s then 0
  else (s.presc + 1) % 2 ^ prescWidth s.cfg.clkPerUs

/-- The edge with `rst` = 1: every register at its reset value, from any state (70_reset_and_hazards.md R240). The read
port still shows the registers before the edge in that cycle (log entry 17). -/
def resetEdge (rsel : BitVec 2) (s : State) : State :=
  { cfg := s.cfg
    st := .idle
    bidx := 0#6
    shreg := 0#40
    tcnt := 0#16
    presc := 0
    sync1 := true
    sync2 := true
    outcome := .none
    resFrame := 0#40
    rdata := regView s rsel
    inputs := s.inputs.tail
    cycle := s.cycle + 1 }

end Sys2Proof.Machine
end

