-- ==== Sys2Proof/Machine/Sequencer.lean ====
section
/-! DEFINITION. The rule of each sequencer state at a tick (41_decoder_sequence.md R141 to R150, 42_checksum_frame.md R173 to
R175). Each takes the LTU result of the tick. `run c` writes the counter and nothing else; a result for which the
state's rule has no clause changes nothing (log entry 12). -/

namespace Sys2Proof.Machine

/-- START_LOW (R141). -/
def phaseStartLow (r : LtuResult) (s : State) : State :=
  match r with
  | .run c => { s with tcnt := c }
  | .ok => { s with st := .startHigh, tcnt := 0#16 }
  | .timeout => s
  | .meas _ _ => s

/-- START_HIGH (R142). -/
def phaseStartHigh (r : LtuResult) (s : State) : State :=
  match r with
  | .run c => { s with tcnt := c }
  | .ok => { s with st := .awaitAck, tcnt := 0#16 }
  | .timeout => s
  | .meas _ _ => s

/-- AWAIT_ACK (R143). -/
def phaseAwaitAck (r : LtuResult) (s : State) : State :=
  match r with
  | .run c => { s with tcnt := c }
  | .ok => { s with st := .ackLow, tcnt := 0#16 }
  | .timeout => raiseFailure .handshakeTimeout s
  | .meas _ _ => s

/-- ACK_LOW (R144). -/
def phaseAckLow (r : LtuResult) (s : State) : State :=
  match r with
  | .run c => { s with tcnt := c }
  | .ok => { s with st := .bitLow, tcnt := 0#16 }
  | .timeout => raiseFailure .handshakeTimeout s
  | .meas _ _ => s

/-- BIT_LOW (R145). -/
def phaseBitLow (r : LtuResult) (s : State) : State :=
  match r with
  | .run c => { s with tcnt := c }
  | .ok => { s with st := .bitHigh, tcnt := 0#16 }
  | .timeout => raiseFailure .bitTimeout s
  | .meas _ _ => s

/-- BIT_HIGH: the sample that ends it is counted, so the counter starts the measurement at 1 (R146). -/
def phaseBitHigh (r : LtuResult) (s : State) : State :=
  match r with
  | .run c => { s with tcnt := c }
  | .ok => { s with st := .bitMeas, tcnt := 1#16 }
  | .timeout => raiseFailure .bitTimeout s
  | .meas _ _ => s

/-- Where a measurement leads: CHECK after bit 39 whatever ended it, else BIT_HIGH if a low sample ended it, else BIT_LOW
(R147, R150; 60_exceptions.md R215). -/
def afterMeasure (bidx : BitVec 6) (endedLow : Bool) : SeqState :=
  if bidx + 1#6 = 40#6 then .check
  else if endedLow then .bitHigh
  else .bitLow

/-- BIT_MEAS (R147). -/
def phaseBitMeas (r : LtuResult) (s : State) : State :=
  match r with
  | .run c => { s with tcnt := c }
  | .ok => s
  | .timeout => s
  | .meas n endedLow =>
    { s with
      shreg := shiftIn s.shreg (decideBit s.cfg n)
      bidx := s.bidx + 1#6
      tcnt := 0#16
      st := afterMeasure s.bidx endedLow }

/-- CHECK: it reads no sample and no LTU result (R148; 42_checksum_frame.md R173 to R175). -/
def phaseCheck (s : State) : State :=
  if checksumOk s.shreg then { s with st := .done, outcome := .success, resFrame := s.shreg }
  else raiseFailure .checksumMismatch s

/-- What a tick does in each state, with the LTU result `r`; nothing in IDLE, DONE and FAILED (R149). -/
def seqTick (r : LtuResult) (s : State) : State :=
  match s.st with
  | .idle => s
  | .startLow => phaseStartLow r s
  | .startHigh => phaseStartHigh r s
  | .awaitAck => phaseAwaitAck r s
  | .ackLow => phaseAckLow r s
  | .bitLow => phaseBitLow r s
  | .bitHigh => phaseBitHigh r s
  | .bitMeas => phaseBitMeas r s
  | .check => phaseCheck s
  | .done => s
  | .failed => s
  | .illegal _ => s

/-- `tickStep(state, s_j)`: the tick-level view of the block (00_scope.md R29, 40_line_transport.md R110). DESIGN CHOICE (log
entry 24): with illegal parameters the state's command word can be one that 30_encoding.md R90 reserves; the spec gives a
tick with such a word no effect, and here it leaves the state unchanged. A cycle that meets one is refused (log entry
10). -/
def tickStep (sample : Level) (s : State) : State :=
  match currentCommand s with
  | .ok cmd => seqTick (ltuStep cmd s.tcnt sample) s
  | .error _ => s

/-- The tick-level machine over a list of samples, one a tick (00_scope.md R29; a reserved command word: log entry 24). -/
def tickRun : List Level → State → State
  | [], s => s
  | x :: xs, s => tickRun xs (tickStep x s)

end Sys2Proof.Machine
end

