-- ==== Sys2Proof/Machine/Cycle.lean ====
section
/-! DEFINITION. One clock cycle and the rising edge that ends it (00_scope.md R20): every register takes its next value
from the values before the edge. Log entries 1 and 2 say how the two instructions of a cycle, the host word and
the LTU command, meet in one step. -/

namespace Sys2Proof.Machine

/-- The sequencer and result registers at an edge without reset: acceptance, the recovery of an illegal code
(30_encoding.md R81), or the rule of a tick; else they hold (60_exceptions.md R215). -/
def sequencerEdge (start : Bool) (cmd : Instr) (s : State) : State :=
  if accepts start s then acceptRead s
  else if isIllegal s.st then { s with st := .idle }
  else if isTick s then seqTick (ltuStep cmd s.tcnt s.sync2) s
  else s

/-- The whole edge without reset: the sequencer, the prescaler (10_state.md R37), the synchroniser (R38), and the read
port's value in the cycle (20_memory.md R61). The edge that recovers an illegal code changes `st` and no other register,
the prescaler and the synchroniser included (30_encoding.md R81; log entry 8). -/
def clockEdge (start : Bool) (rsel : BitVec 2) (cmd : Instr) (s : State) : State :=
  { sequencerEdge start cmd s with
    presc := if isIllegal s.st then s.presc else prescNext (accepts start s) s
    sync1 := if isIllegal s.st then s.sync1 else lineLevel cmd (portOf s).line
    sync2 := if isIllegal s.st then s.sync2 else s.sync1
    rdata := regView s rsel
    inputs := s.inputs.tail
    cycle := s.cycle + 1 }

/-- One clock cycle with the host's `start` and `rsel` and the LTU command `cmd`: reset beats everything
(60_exceptions.md R215), a reserved LTU word is refused (30_encoding.md R90). -/
def clockCycle (start : Bool) (rsel : BitVec 2) (cmd : Except DecodeError Instr) (s : State) :
    Host.Outcome State Fault Refusal :=
  if (portOf s).rst then .next (resetEdge rsel s)
  else
    match cmd with
    | .ok c => .next (clockEdge start rsel c s)
    | .error why => .refused (.reservedLtuWord why)

/-- A cycle in which the host presents `{start, rsel}` and the LTU performs the sequencer's command. -/
def hostCycle (start : Bool) (rsel : BitVec 2) (s : State) : Host.Outcome State Fault Refusal :=
  clockCycle start rsel (currentCommand s) s

/-- A cycle in which the LTU performs `cmd` and the host presents what stands at its ports. -/
def ltuCycle (cmd : Instr) (s : State) : Host.Outcome State Fault Refusal :=
  clockCycle (portOf s).start (portOf s).rsel cmd.checked s

end Sys2Proof.Machine
end

