-- ==== Sys2Proof/Machine/HostPort.lean ====
section
/-! DEFINITION. The meanings of the host words (43_host_interface.md). Each is one clock cycle (30_encoding.md R98). -/

namespace Sys2Proof.Machine

/-- READ (R190, R191): `start` = 1. -/
def execRead (rsel : BitVec 2) (s : State) : Host.Outcome State Fault Refusal := hostCycle true rsel s

/-- RD_STATUS (R197): `rsel` = 0. -/
def execRdStatus (s : State) : Host.Outcome State Fault Refusal := hostCycle false 0#2 s

/-- RD_READING (R198): `rsel` = 1. -/
def execRdReading (s : State) : Host.Outcome State Fault Refusal := hostCycle false 1#2 s

/-- RD_FRAME0 (R199): `rsel` = 2. -/
def execRdFrame0 (s : State) : Host.Outcome State Fault Refusal := hostCycle false 2#2 s

/-- RD_FRAME1 (R200): `rsel` = 3. -/
def execRdFrame1 (s : State) : Host.Outcome State Fault Refusal := hostCycle false 3#2 s

end Sys2Proof.Machine
end

