-- ==== Sys2Proof/Machine/LineTransport.lean ====
section
/-! DEFINITION. The meanings of the LTU commands (40_line_transport.md): a clock cycle in which the unit performs the
command. It acts only in a tick of a busy state, where the sequencer's rule for the state consumes the result at
the same edge (R110, R112). -/

namespace Sys2Proof.Machine

/-- RELEASE (R113). -/
def execRelease (s : State) : Host.Outcome State Fault Refusal := ltuCycle .release s

/-- DRIVE_LOW d (R114). -/
def execDriveLow (d : Ticks) (s : State) : Host.Outcome State Fault Refusal := ltuCycle (.driveLow d) s

/-- DRIVE_HIGH d (R115). -/
def execDriveHigh (d : Ticks) (s : State) : Host.Outcome State Fault Refusal := ltuCycle (.driveHigh d) s

/-- WAIT_LOW t (R116). -/
def execWaitLow (t : Ticks) (s : State) : Host.Outcome State Fault Refusal := ltuCycle (.waitLow t) s

/-- WAIT_HIGH t (R117). -/
def execWaitHigh (t : Ticks) (s : State) : Host.Outcome State Fault Refusal := ltuCycle (.waitHigh t) s

/-- MEASURE_HIGH c (R118). -/
def execMeasureHigh (c : Ticks) (s : State) : Host.Outcome State Fault Refusal := ltuCycle (.measureHigh c) s

end Sys2Proof.Machine
end

