-- ==== Sys2Proof/Machine/Dispatch.lean ====
section
/-! DEFINITION. One arm per constructor of Instr. -/

namespace Sys2Proof.Machine

def exec (i : Instr) (s : State) : Host.Outcome State Fault Refusal :=
  match i with
  | .read rsel => Sys2Proof.Machine.execRead rsel s
  | .rdStatus => Sys2Proof.Machine.execRdStatus s
  | .rdReading => Sys2Proof.Machine.execRdReading s
  | .rdFrame0 => Sys2Proof.Machine.execRdFrame0 s
  | .rdFrame1 => Sys2Proof.Machine.execRdFrame1 s
  | .release => Sys2Proof.Machine.execRelease s
  | .driveLow d => Sys2Proof.Machine.execDriveLow d s
  | .driveHigh d => Sys2Proof.Machine.execDriveHigh d s
  | .waitLow t => Sys2Proof.Machine.execWaitLow t s
  | .waitHigh t => Sys2Proof.Machine.execWaitHigh t s
  | .measureHigh c => Sys2Proof.Machine.execMeasureHigh c s

end Sys2Proof.Machine
end

