-- ==== Sys2Proof/Machine/Fetch.lean ====
section
/-! DEFINITION. Where the instructions of a cycle come from, and how a word is put there (log entries 2 and 4). -/

namespace Sys2Proof.Machine

/-- The host word at the ports (30_encoding.md R91). -/
def hostWordOf (p : CycleInput) : HostWord := hostFields p.start p.rsel

/-- The host's instruction of this cycle. -/
def fetchHost (s : State) : Instr := decodeHost (hostWordOf (portOf s))

/-- This cycle's port values as data, without reset: those listed, or none listed, a cycle with `start` = 0 and a line
released high. -/
def definitePort (s : State) : CycleInput :=
  match s.inputs with
  | p :: _ => { p with rst := false }
  | [] => { rst := false, start := false, rsel := 0#2, line := .environment true }

/-- `s` with the host word `w` at its ports in this cycle. -/
def placeHost (w : HostWord) (s : State) : State :=
  { s with inputs := { definitePort s with start := w.getLsbD 2, rsel := w.extractLsb' 0 2 } :: s.inputs.tail }

/-- `s` in sequencer state `st` with parameters `cfg`, in a tick (10_state.md R37). -/
def placeCommand (st : SeqState) (cfg : Params) (s : State) : State :=
  { s with
    st := st
    cfg := cfg
    presc := cfg.clkPerUs - 1
    inputs := definitePort s :: s.inputs.tail }

/-- `s` in a tick of a sequencer state whose command is the word `w`: the block takes each operand from a parameter
(30_encoding.md R88, R89), so the parameter that the state's row of R89 names takes the operand. The words that no row
of R89 can make (30_encoding.md R90, first two items) are nowhere. -/
def placeLtu (w : LtuWord) (s : State) : State :=
  let op := w.extractLsb' 17 2
  let lvl := w.getLsbD 16
  let arg := w.extractLsb' 0 16
  if op = 0#2 then
    if lvl = false ∧ arg = 0#16 then placeCommand .idle s.cfg s else s
  else if op = 1#2 then
    if lvl then placeCommand .startHigh { s.cfg with tRelHigh := arg.toNat } s
    else placeCommand .startLow { s.cfg with tStartLow := arg.toNat } s
  else if op = 2#2 then
    if lvl then placeCommand .ackLow { s.cfg with tAckTo := arg.toNat } s
    else placeCommand .awaitAck { s.cfg with tAckTo := arg.toNat } s
  else if lvl then placeCommand .bitMeas { s.cfg with tCap := arg.toNat } s
  else s

end Sys2Proof.Machine
end

