-- ==== Sys2Proof/Machine/Step.lean ====
section
/-! DEFINITION. One step: one rising edge of `clk` (00_scope.md R20). -/

namespace Sys2Proof.Machine

/-- The block runs the host word at its ports, and in the same cycle the LTU command of its sequencer state. -/
def step (s : State) : Host.Outcome State Fault Refusal := exec (fetchHost s) s

/-- `s` with an opcode-table word where the next step takes it from: a host word at the ports, an LTU word as the command
of the sequencer state (log entry 4). -/
def State.withFetchWord (s : State) (nbits w : Nat) : State :=
  match formatOfBits nbits with
  | .host => placeHost (BitVec.ofNat 3 (w % 2 ^ nbits)) s
  | .ltu => placeLtu (BitVec.ofNat 19 (w % 2 ^ nbits)) s

end Sys2Proof.Machine
end

