-- ==== Sys2Proof/Machine/HostProgram.lean ====
section
/-! DEFINITION. The host's side: host program lines (30_encoding.md R98) and the procedure that gives the source's
`read() -> DecodeOutcome` (43_host_interface.md R201). A host program runs over the machine by its host words; the
other ports take the values the state lists. -/

namespace Sys2Proof.Machine

/-- The source's Reading: two unsigned bytes, in percent and degrees Celsius (42_checksum_frame.md R176). -/
structure Reading where
  humidity : Byte
  temperature : Byte
  deriving DecidableEq, Repr

/-- The source's DecodeOutcome (00_scope.md R23). -/
inductive DecodeOutcome where
  | success (r : Reading)
  | failure (kind : FailureKind)
  deriving DecidableEq, Repr

/-- STATUS.OUTCOME in a STATUS word (30_encoding.md R92). -/
def statusOutcome (status : Reg32) : BitVec 3 := status.extractLsb' 2 3

/-- What the host makes of a STATUS word and a READING word (R201, steps 5 and 6). -/
def hostOutcome (status reading : Reg32) : Option DecodeOutcome :=
  if statusOutcome status = 1#3 then
    some (.success { humidity := reading.extractLsb' 0 8, temperature := reading.extractLsb' 8 8 })
  else if statusOutcome status = 2#3 then some (.failure .handshakeTimeout)
  else if statusOutcome status = 3#3 then some (.failure .bitTimeout)
  else if statusOutcome status = 4#3 then some (.failure .checksumMismatch)
  else none

/-- The registers a host program line can name (R98). -/
inductive RegName where
  | status
  | reading
  | frame0
  | frame1
  deriving DecidableEq, Repr

/-- The host program lines of R98, but for the loop WAITDONE (`waitDone`). -/
inductive HostLine where
  /-- `READ`: `start` = 1 for one cycle -/
  | read
  /-- `RD <reg>` -/
  | rd (reg : RegName)
  /-- `NOP n`: n cycles with `start` = 0 -/
  | nop (n : Nat)
  deriving DecidableEq, Repr

/-- The host word of `RD <reg>` as an instruction (20_memory.md R62). -/
def rdInstr : RegName → Instr
  | .status => .rdStatus
  | .reading => .rdReading
  | .frame0 => .rdFrame0
  | .frame1 => .rdFrame1

/-- The per-cycle instructions of a line: NOP is the word 000 with `rdata` ignored (95_test_vectors.md section 3). -/
def lineInstrs : HostLine → List Instr
  | .read => [.read 0#2]
  | .rd reg => [rdInstr reg]
  | .nop n => List.replicate n .rdStatus

/-- The loop `L: RD STATUS; if the bit is not as wanted, go to L`, at most `fuel` polls; `none` if they do not suffice.
With bit 1 and `true` it is WAITDONE (R98); with bit 0 and `false` it waits for BUSY = 0 (R201 step 1). -/
def pollStatus (bit : Nat) (want : Bool) : Nat → State → Option State
  | 0, _ => none
  | fuel + 1, s =>
    match execRdStatus s with
    | .next t => if t.rdata.getLsbD bit = want then some t else pollStatus bit want fuel t
    | .fault _ => none
    | .refused _ => none

/-- WAITDONE (R98). -/
def waitDone (fuel : Nat) (s : State) : Option State := pollStatus 1 true fuel s

/-- The source's `read()` (R201): wait for BUSY = 0, READ, WAITDONE, RD STATUS, RD READING; what the host then holds, and
the state it leaves. -/
def hostRead (fuel : Nat) (s : State) : Option (DecodeOutcome × State) :=
  match pollStatus 0 false fuel s with
  | none => none
  | some s1 =>
    match execRead 0#2 s1 with
    | .fault _ => none
    | .refused _ => none
    | .next s2 =>
      match waitDone fuel s2 with
      | none => none
      | some s3 =>
        match execRdStatus s3 with
        | .fault _ => none
        | .refused _ => none
        | .next s4 =>
          match execRdReading s4 with
          | .fault _ => none
          | .refused _ => none
          | .next s5 => (hostOutcome s4.rdata s5.rdata).map (fun o => (o, s5))

end Sys2Proof.Machine
end

