-- ==== Sys2Proof/Machine/Assembler.lean ====
section
/-! DEFINITION. The written form of commands (30_encoding.md R97). -/

namespace Sys2Proof.Machine

/-- An instruction as R97 and R98 write it. -/
def asmText : Instr → String
  | .read _ => "READ"
  | .rdStatus => "RD STATUS"
  | .rdReading => "RD READING"
  | .rdFrame0 => "RD FRAME0"
  | .rdFrame1 => "RD FRAME1"
  | .release => "RELEASE"
  | .driveLow d => "DRIVE_LOW " ++ toString d.toNat
  | .driveHigh d => "DRIVE_HIGH " ++ toString d.toNat
  | .waitLow t => "WAIT_LOW " ++ toString t.toNat
  | .waitHigh t => "WAIT_HIGH " ++ toString t.toNat
  | .measureHigh c => "MEASURE_HIGH " ++ toString c.toNat

/-- The source's operation names, as pseudo-instructions (R97). -/
inductive Pseudo where
  | driveLowFor (d : Ticks)
  | releaseHighBriefly (d : Ticks)
  | waitForLevel (level : Level) (t : Ticks)
  | measureHighDuration (c : Ticks)
  deriving DecidableEq, Repr

/-- The expansion of a pseudo-instruction (R97). -/
def expandPseudo : Pseudo → Instr
  | .driveLowFor d => .driveLow d
  | .releaseHighBriefly d => .driveHigh d
  | .waitForLevel level t => if level then .waitHigh t else .waitLow t
  | .measureHighDuration c => .measureHigh c

end Sys2Proof.Machine
end

