-- ==== Sys2Proof/Safety.lean ====
section
/-! DEFINITION. What the claims speak of: the invariant of the reachable states (10_state.md R44), the host's
precondition (43_host_interface.md R191), and the ticks a transaction has left (70_reset_and_hazards.md R252, R253). -/

namespace Sys2Proof.Machine

/-- START_LOW to ACK_LOW: the transaction has captured nothing yet. -/
def inHandshake (st : SeqState) : Prop :=
  st = .startLow ∨ st = .startHigh ∨ st = .awaitAck ∨ st = .ackLow

/-- BIT_LOW, BIT_HIGH and BIT_MEAS: the capture of bit `bidx`. -/
def inCapture (st : SeqState) : Prop := st = .bitLow ∨ st = .bitHigh ∨ st = .bitMeas

/-- What the phase counter may hold in each state; R44 item 7 follows. -/
def counterOk (s : State) : Prop :=
  match s.st with
  | .idle => s.tcnt = 0#16
  | .startLow => s.tcnt.toNat < s.cfg.tStartLow
  | .startHigh => s.tcnt.toNat < s.cfg.tRelHigh
  | .awaitAck => s.tcnt.toNat ≤ s.cfg.tAckTo
  | .ackLow => s.tcnt.toNat ≤ s.cfg.tAckTo
  | .bitLow => s.tcnt.toNat ≤ bitLowTimeout s.cfg s.bidx
  | .bitHigh => s.tcnt.toNat ≤ s.cfg.tBitTo
  | .bitMeas => 1 ≤ s.tcnt.toNat ∧ s.tcnt.toNat < s.cfg.tCap
  | .check => s.tcnt = 0#16
  | .done => s.tcnt = 0#16
  | .failed => s.tcnt = 0#16
  | .illegal _ => False

/-- What `outcome` may hold in each state; R44 items 3 and 5 follow. -/
def outcomeOk (s : State) : Prop :=
  match s.st with
  | .done => s.outcome = .success
  | .failed => ∃ kind, s.outcome = failureTag kind
  | .idle => s.outcome = .none
  | .startLow => s.outcome = .none
  | .startHigh => s.outcome = .none
  | .awaitAck => s.outcome = .none
  | .ackLow => s.outcome = .none
  | .bitLow => s.outcome = .none
  | .bitHigh => s.outcome = .none
  | .bitMeas => s.outcome = .none
  | .check => s.outcome = .none
  | .illegal _ => False

/-- The invariant of the states a machine with legal parameters reaches: the items of 10_state.md R44, made inductive. -/
structure Inv (s : State) : Prop where
  legal : s.cfg.legal = true
  presc : s.presc < s.cfg.clkPerUs
  counter : counterOk s
  outcome : outcomeOk s
  bidxLe : s.bidx.toNat ≤ 40
  start : s.st = .idle ∨ inHandshake s.st → s.bidx = 0#6 ∧ s.shreg = 0#40
  capture : inCapture s.st → s.bidx.toNat ≤ 39 ∧ s.shreg.toNat < 2 ^ s.bidx.toNat
  full : s.st = .check ∨ s.st = .done → s.bidx = 40#6
  result : s.st = .done → s.resFrame = s.shreg ∧ checksumOk s.resFrame = true
  noResult : s.st ≠ .done → s.resFrame = 0#40

/-- The seven items of 10_state.md R44, in its order and its words. -/
structure ReachableFacts (s : State) : Prop where
  item1a : s.bidx.toNat ≤ 40
  item1b : s.st = .check → s.bidx = 40#6
  item1c : s.bidx = 40#6 → s.st = .check ∨ s.st = .done ∨ s.st = .failed
  item2 : inCapture s.st → s.bidx.toNat ≤ 39 ∧ ∀ k, s.bidx.toNat ≤ k → k ≤ 39 → s.shreg.getLsbD k = false
  item3 : s.outcome = .none ↔ s.st ≠ .done ∧ s.st ≠ .failed
  item4 : s.outcome ≠ .success → s.resFrame = 0#40
  item5a : s.st = .done ↔ s.outcome = .success
  item5b : s.st = .failed ↔
    s.outcome = .handshakeTimeout ∨ s.outcome = .bitTimeout ∨ s.outcome = .checksumMismatch
  item6 : isIllegal s.st = false
  item7 : s.tcnt.toNat ≤
    max s.cfg.tStartLow (max s.cfg.tAckTo (max s.cfg.tBit0LowTo (max s.cfg.tBitTo s.cfg.tCap)))

/-- The host keeps the source's precondition in this cycle: no READ while busy (43_host_interface.md R191;
93_implementation_defined.md I13). The block does not need it. -/
def hostKeepsContract (s : State) : Bool := !((portOf s).start && busyFlag s)

/-- Two states with the same sequencer and result registers: all that 00_scope.md R29's tick-level view looks at. -/
def SameSequencer (s t : State) : Prop :=
  s.cfg = t.cfg ∧ s.st = t.st ∧ s.tcnt = t.tcnt ∧ s.bidx = t.bidx ∧ s.shreg = t.shreg ∧
    s.outcome = t.outcome ∧ s.resFrame = t.resFrame

/-- What the sequencer does by itself in a cycle in which no READ is accepted and `rst` = 0: an illegal code recovers
(30_encoding.md R81), a tick runs the tick-level machine on the line sample (00_scope.md R29; a reserved command
word: log entry 24), else nothing. -/
def blockEdge (s : State) : State :=
  if isIllegal s.st then { s with st := .idle }
  else if s.presc = s.cfg.clkPerUs - 1 then tickStep s.sync2 s
  else s

/-- What every cycle of `s` with `rst` = 0 does besides the sequencer: the parameters stay (00_scope.md R5), the
prescaler (10_state.md R37) and the synchroniser (R38) go on, but for the edge that recovers an illegal state code, which
holds them (30_encoding.md R81), and the next cycle's port values come up. -/
def EdgeFrame (cmd : Instr) (accepted : Bool) (s t : State) : Prop :=
  t.cfg = s.cfg ∧
  t.presc =
    (if isIllegal s.st = true then s.presc
      else if accepted = true ∨ s.presc = s.cfg.clkPerUs - 1 then 0
      else (s.presc + 1) % 2 ^ prescWidth s.cfg.clkPerUs) ∧
  t.sync1 = (if isIllegal s.st = true then s.sync1 else lineLevel cmd (portOf s).line) ∧
  t.sync2 = (if isIllegal s.st = true then s.sync2 else s.sync1) ∧
  t.inputs = s.inputs.tail ∧ t.cycle = s.cycle + 1

/-- A frame of five bytes, byte 0 first (30_encoding.md R84). -/
def frameOf (b0 b1 b2 b3 b4 : Byte) : Frame := 
  cat 40 (cat 32 (cat 24 (cat 16 b0 b1) b2) b3) b4

/-- The samples of one bit from BIT_HIGH on, the first low sample already taken: `lw` low samples in all, then `h` high
samples, then the low sample that ends the bit (41_decoder_sequence.md R153). -/
def bitSamples (lw h : Nat) : List Level :=
  List.replicate (lw - 1) false ++ (List.replicate h true ++ [false])

/-- The samples the capture of bit 39 takes from BIT_HIGH on: with a high phase at or above the ceiling the measurement
ends at its `T_CAP`-th high sample, and the line after it is never sampled (41_decoder_sequence.md R153, fourth item). -/
def lastBitSamples (cfg : Params) (lw h : Nat) : List Level :=
  if h < cfg.tCap then bitSamples lw h else List.replicate (lw - 1) false ++ List.replicate cfg.tCap true

/-- The samples of a list of bits, each given by its low and high length. -/
def frameSamples : List (Nat × Nat) → List Level
  | [] => []
  | p :: ps => bitSamples p.1 p.2 ++ frameSamples ps

/-- The samples of an acknowledgement: `r` high, `l` low, `a` high, then the first low sample of bit 0
(41_decoder_sequence.md R152). -/
def ackSamples (r l a : Nat) : List Level :=
  List.replicate r true ++ (List.replicate l false ++ (List.replicate a true ++ [false]))

/-- The ticks that bit captures and CHECK still take at most when bit `b` starts in BIT_HIGH: every bit its low phase,
its measurement and, but for bit 39, the wait for low after it (70_reset_and_hazards.md R252, R253). -/
def captureTicks (cfg : Params) (b : Nat) : Nat :=
  (39 - b) * ((cfg.tBitTo + 1) + (cfg.tCap - 1) + (cfg.tBitTo + 1)) + ((cfg.tBitTo + 1) + (cfg.tCap - 1)) + 1

/-- The most ticks a transaction takes from acceptance (70_reset_and_hazards.md R253, the parameter form). -/
def worstCase (cfg : Params) : Nat :=
  cfg.tStartLow + cfg.tRelHigh + 2 * (cfg.tAckTo + 1) + (cfg.tBit0LowTo + 1)
    + 39 * ((cfg.tBitTo + 1) + (cfg.tCap - 1) + (cfg.tBitTo + 1)) + (cfg.tBitTo + 1) + (cfg.tCap - 1) + 1

/-- The most ticks the transaction of `s` still takes; 0 when there is none (60_exceptions.md R212). -/
def ticksLeft (s : State) : Nat :=
  match s.st with
  | .idle => 0
  | .startLow =>
    (s.cfg.tStartLow - s.tcnt.toNat) + s.cfg.tRelHigh + 2 * (s.cfg.tAckTo + 1) + (s.cfg.tBit0LowTo + 1)
      + captureTicks s.cfg 0
  | .startHigh =>
    (s.cfg.tRelHigh - s.tcnt.toNat) + 2 * (s.cfg.tAckTo + 1) + (s.cfg.tBit0LowTo + 1) + captureTicks s.cfg 0
  | .awaitAck =>
    (s.cfg.tAckTo + 1 - s.tcnt.toNat) + (s.cfg.tAckTo + 1) + (s.cfg.tBit0LowTo + 1) + captureTicks s.cfg 0
  | .ackLow => (s.cfg.tAckTo + 1 - s.tcnt.toNat) + (s.cfg.tBit0LowTo + 1) + captureTicks s.cfg 0
  | .bitLow => (bitLowTimeout s.cfg s.bidx + 1 - s.tcnt.toNat) + captureTicks s.cfg s.bidx.toNat
  | .bitHigh => captureTicks s.cfg s.bidx.toNat - s.tcnt.toNat
  | .bitMeas => captureTicks s.cfg s.bidx.toNat - (s.cfg.tBitTo + 1) - (s.tcnt.toNat - 1)
  | .check => 1
  | .done => 0
  | .failed => 0
  | .illegal _ => 0

end Sys2Proof.Machine
end

