-- ==== Sys2Proof/Certificates/Slice0/Obligations.lean ====
section
/-! DEFINITION. The statements for the provers. Each docstring names the rules of spec/ it formalises. -/

open Sys2Proof Sys2Proof.Machine

/-! ### Reset -/

/-- 10_state.md R43: the reset value of every register, the codes of `st` and `outcome`, and what the ports and the
register view show. -/
def Obligations.ResetStateHasTheSpecsValues : Prop :=
  seqCode State.reset.st = 0#4 ∧ State.reset.bidx = 0#6 ∧ State.reset.shreg = 0#40 ∧ State.reset.tcnt = 0#16 ∧
  State.reset.presc = 0 ∧ State.reset.sync1 = true ∧ State.reset.sync2 = true ∧
  outcomeCode State.reset.outcome = 0#3 ∧ State.reset.resFrame = 0#40 ∧
  busyFlag State.reset = false ∧ doneFlag State.reset = false ∧ fracNzFlag State.reset = false ∧
  lineOe State.reset = false ∧ lineOut State.reset = false ∧
  regView State.reset 0#2 = 0#32 ∧ regView State.reset 1#2 = 0#32 ∧
  regView State.reset 2#2 = 0#32 ∧ regView State.reset 3#2 = 0#32

/-- 70_reset_and_hazards.md R240, R241 and 60_exceptions.md R215 item 1: an edge with `rst` = 1 gives every register its
reset value from any state, whatever the host word and the LTU command are, records no outcome and releases the line. -/
def Obligations.ResetBeatsEverything : Prop :=
  ∀ (i : Instr) (s : State), (portOf s).rst = true →
    ∃ t, exec i s = .next t ∧ step s = .next { t with rdata := regView s (portOf s).rsel } ∧
      t.st = .idle ∧ t.tcnt = 0#16 ∧ t.bidx = 0#6 ∧ t.shreg = 0#40 ∧ t.presc = 0 ∧
      t.sync1 = true ∧ t.sync2 = true ∧ t.outcome = .none ∧ t.resFrame = 0#40 ∧
      t.cfg = s.cfg ∧ t.inputs = s.inputs.tail ∧ t.cycle = s.cycle + 1 ∧
      lineOe t = false ∧ lineOut t = false ∧ busyFlag t = false ∧ doneFlag t = false ∧ statusReg t = 0#32

/-! ### The host interface -/

/-- 43_host_interface.md R190: a READ in IDLE, DONE or FAILED is accepted, tick or not, and starts a transaction. With
`rst` = 1 or in an illegal state it is not accepted (30_encoding.md R81). -/
def Obligations.ReadIsAcceptedWhenNotBusy : Prop :=
  (∀ (s : State) (rsel : BitVec 2),
    (portOf s).rst = false → (s.st = .idle ∨ s.st = .done ∨ s.st = .failed) →
    ∃ t, exec (.read rsel) s = .next t ∧
      t.st = .startLow ∧ t.tcnt = 0#16 ∧ t.bidx = 0#6 ∧ t.shreg = 0#40 ∧ t.outcome = .none ∧
      t.resFrame = 0#40 ∧ t.presc = 0 ∧ t.rdata = regView s rsel ∧
      EdgeFrame .release true s t ∧
      busyFlag t = true ∧ doneFlag t = false ∧ fracNzFlag t = false ∧
      statusReg t = 1#32 ∧ readingReg t = 0#32 ∧ frame0Reg t = 0#32 ∧ frame1Reg t = 0#32 ∧
      (s.cfg.legal = true → lineOe t = true ∧ lineOut t = false)) ∧
  (∀ (s t : State) (rsel : BitVec 2), exec (.read rsel) s = .next t →
    ((portOf s).rst = true ∨ isIllegal s.st = true) → t.st = .idle)

/-- 43_host_interface.md R191, 60_exceptions.md R219, 30_encoding.md R81: a READ in any other state is the register read
of the same `rsel`, nothing more. -/
def Obligations.ReadIsIgnoredOtherwise : Prop :=
  ∀ (s : State), acceptsRead s.st = false →
    exec (.read 0#2) s = exec .rdStatus s ∧ exec (.read 1#2) s = exec .rdReading s ∧
    exec (.read 2#2) s = exec .rdFrame0 s ∧ exec (.read 3#2) s = exec .rdFrame1 s

/-- 43_host_interface.md R197 and 30_encoding.md R92: RD_STATUS, in every state with a command (a state with legal
parameters has one). The block goes on as it does without a command. -/
def Obligations.RdStatusShowsTheFlags : Prop :=
  ∀ (s : State) (cmd : Instr), (portOf s).rst = false → currentCommand s = .ok cmd →
    ∃ t, exec .rdStatus s = .next t ∧
      (t.rdata.getLsbD 0 = true ↔
        s.st = .startLow ∨ s.st = .startHigh ∨ s.st = .awaitAck ∨ s.st = .ackLow ∨ s.st = .bitLow ∨
          s.st = .bitHigh ∨ s.st = .bitMeas ∨ s.st = .check) ∧
      (t.rdata.getLsbD 1 = true ↔ s.st = .done ∨ s.st = .failed) ∧
      t.rdata.extractLsb' 2 3 = outcomeCode s.outcome ∧
      (t.rdata.getLsbD 5 = true ↔ frameByte s.resFrame 1 ≠ 0#8 ∨ frameByte s.resFrame 3 ≠ 0#8) ∧
      t.rdata.extractLsb' 6 26 = 0#26 ∧
      (Inv s → isBusy s.st = true → t.rdata = 1#32) ∧
      (s.st = .idle → s.outcome = .none → s.resFrame = 0#40 → t.rdata = 0#32) ∧
      SameSequencer t (blockEdge s) ∧ EdgeFrame cmd false s t

/-- 43_host_interface.md R198 and 30_encoding.md R93: RD_READING. -/
def Obligations.RdReadingShowsTheReading : Prop :=
  ∀ (s : State) (cmd : Instr), (portOf s).rst = false → currentCommand s = .ok cmd →
    ∃ t, exec .rdReading s = .next t ∧
      t.rdata.extractLsb' 0 8 = s.resFrame.extractLsb' 32 8 ∧
      t.rdata.extractLsb' 8 8 = s.resFrame.extractLsb' 16 8 ∧
      t.rdata.extractLsb' 16 16 = 0#16 ∧
      (Inv s → s.outcome ≠ .success → t.rdata = 0#32) ∧
      SameSequencer t (blockEdge s) ∧ EdgeFrame cmd false s t

/-- 43_host_interface.md R199 and 30_encoding.md R94: RD_FRAME0. -/
def Obligations.RdFrame0ShowsFourBytes : Prop :=
  ∀ (s : State) (cmd : Instr), (portOf s).rst = false → currentCommand s = .ok cmd →
    ∃ t, exec .rdFrame0 s = .next t ∧
      t.rdata.extractLsb' 0 8 = s.resFrame.extractLsb' 32 8 ∧
      t.rdata.extractLsb' 8 8 = s.resFrame.extractLsb' 24 8 ∧
      t.rdata.extractLsb' 16 8 = s.resFrame.extractLsb' 16 8 ∧
      t.rdata.extractLsb' 24 8 = s.resFrame.extractLsb' 8 8 ∧
      (Inv s → s.outcome ≠ .success → t.rdata = 0#32) ∧
      SameSequencer t (blockEdge s) ∧ EdgeFrame cmd false s t

/-- 43_host_interface.md R200 and 30_encoding.md R95: RD_FRAME1. -/
def Obligations.RdFrame1ShowsTheChecksum : Prop :=
  ∀ (s : State) (cmd : Instr), (portOf s).rst = false → currentCommand s = .ok cmd →
    ∃ t, exec .rdFrame1 s = .next t ∧
      t.rdata.extractLsb' 0 8 = s.resFrame.extractLsb' 0 8 ∧
      t.rdata.extractLsb' 8 24 = 0#24 ∧
      (Inv s → s.outcome ≠ .success → t.rdata = 0#32) ∧
      SameSequencer t (blockEdge s) ∧ EdgeFrame cmd false s t

/-- 20_memory.md R61 and R66: what `rsel` is changes no register. Two host words with the same `start` bit give the same
next state but for the sampled `rdata`, or stop for the same reason. -/
def Obligations.RegisterSelectChangesNoRegister : Prop :=
  ∀ (s : State) (start : Bool) (a b : BitVec 2),
    (∃ t u, exec (decodeHost (hostFields start a)) s = .next t ∧ exec (decodeHost (hostFields start b)) s = .next u ∧
      t.rdata = regView s a ∧ u.rdata = regView s b ∧ { t with rdata := u.rdata } = u) ∨
    (∃ why, exec (decodeHost (hostFields start a)) s = .refused why ∧
      exec (decodeHost (hostFields start b)) s = .refused why)

/-- 43_host_interface.md R203, 20_memory.md R70: during a transaction the host sees only that there is one. -/
def Obligations.BusyShowsNothingElse : Prop :=
  ∀ s : State, Inv s → isBusy s.st = true →
    regView s 0#2 = 1#32 ∧ regView s 1#2 = 0#32 ∧ regView s 2#2 = 0#32 ∧ regView s 3#2 = 0#32

/-- 43_host_interface.md R201, steps 5 and 6: what the host makes of STATUS and READING once the transaction has ended.
Steps 1 to 4 are in HostReadReportsTheTransaction. -/
def Obligations.HostReadsTheOutcome : Prop :=
  ∀ s : State, Inv s →
    (s.st = .done → hostOutcome (statusReg s) (readingReg s) =
      some (.success { humidity := frameByte s.shreg 0, temperature := frameByte s.shreg 2 })) ∧
    (∀ kind, s.st = .failed → s.outcome = failureTag kind →
      hostOutcome (statusReg s) (readingReg s) = some (.failure kind)) ∧
    (doneFlag s = false → hostOutcome (statusReg s) (readingReg s) = none)

/-- 43_host_interface.md R201, all its steps: the host waits for BUSY = 0, issues READ, waits for DONE = 1 and reads STATUS and
READING. From every state of the invariant, with no reset in the cycles it takes and polls enough for the bound of
70_reset_and_hazards.md R253, the READ starts a transaction, and the host ends with the outcome of that one, which the block
then holds. -/
def Obligations.HostReadReportsTheTransaction : Prop :=
  ∀ (s : State) (fuel : Nat), Inv s → worstCase s.cfg * s.cfg.clkPerUs + 1 ≤ fuel →
    2 * fuel + 3 ≤ s.inputs.length → (∀ p ∈ s.inputs, p.rst = false) →
    ∃ s1 s2 s3 o u, pollStatus 0 false fuel s = some s1 ∧ busyFlag s1 = false ∧
      exec (.read 0#2) s1 = .next s2 ∧ s2.st = .startLow ∧ s2.outcome = .none ∧ s2.resFrame = 0#40 ∧
      waitDone fuel s2 = some s3 ∧ doneFlag s3 = true ∧
      hostRead fuel s = some (o, u) ∧ SameSequencer u s3 ∧ Inv u ∧ u.cfg = s.cfg ∧
      ((u.st = .done ∧ o = .success { humidity := frameByte u.shreg 0, temperature := frameByte u.shreg 2 }) ∨
        ∃ kind, u.st = .failed ∧ u.outcome = failureTag kind ∧ o = .failure kind)

/-- 30_encoding.md R81: a state with an illegal code is not busy, not done, releases the line, accepts no READ, and is in
IDLE after one edge without `rst`, with no other register of the spec changed; no step leads to such a state; and a
state that holds one is refused on admission. Log entry 8 says how the model takes R81's last sentence. -/
def Obligations.IllegalStateRecoversToIdle : Prop :=
  (∀ (s : State) (k : Fin 5), s.st = .illegal k →
    busyFlag s = false ∧ doneFlag s = false ∧ lineOe s = false ∧ currentCommand s = .ok .release ∧
    (∀ start, accepts start s = false) ∧
    ((portOf s).rst = false →
      ∃ t, step s = .next t ∧ SameSequencer t { s with st := .idle } ∧
        t.presc = s.presc ∧ t.sync1 = s.sync1 ∧ t.sync2 = s.sync2 ∧ EdgeFrame .release false s t) ∧
    (s.cfg.legal = true → s.takeIn = .error .illegalStateCode)) ∧
  (∀ s t : State, step s = .next t → isIllegal t.st = false)

/-- 30_encoding.md R83, 93_implementation_defined.md I3, I5, I6: a state is taken in exactly when its parameters are legal and it
holds neither an illegal state code nor a reserved outcome code; every state of the invariant is; and no step writes a
reserved outcome code. -/
def Obligations.AdmissionRefusesUnreachableCodes : Prop :=
  (∀ s : State, s.takeIn = .ok s ↔
    s.cfg.legal = true ∧ (∀ k, s.st ≠ .illegal k) ∧ (∀ k, s.outcome ≠ .reserved k)) ∧
  (∀ s : State, s.cfg.legal = true → (∀ k, s.st ≠ .illegal k) →
    ∀ k, s.outcome = .reserved k → s.takeIn = .error .reservedOutcomeCode) ∧
  (∀ s : State, s.cfg.legal = false → s.takeIn = .error .illegalParameters) ∧
  (∀ s : State, Inv s → s.takeIn = .ok s) ∧
  (∀ (s t : State) (k : Fin 3), step s = .next t → t.outcome = .reserved k → s.outcome = .reserved k)

/-! ### The Line Transport unit -/

/-- 40_line_transport.md R110, R113, 41_decoder_sequence.md R149: RELEASE holds everything, but for the cycle's own rules: the
checksum at a tick of CHECK, the acceptance of a READ, the recovery of an illegal code. In the busy states before CHECK,
to which 30_encoding.md R89 gives another command, the clause is the model's reading (log entry 12, DESIGN CHOICE). -/
def Obligations.ReleaseHolds : Prop :=
  ∀ s : State, (portOf s).rst = false →
    ∃ t, exec .release s = .next t ∧ t.rdata = regView s (portOf s).rsel ∧
      EdgeFrame .release (accepts (portOf s).start s) s t ∧
      padEnable .release = false ∧ padOut .release = false ∧
      (∀ (tcnt : Ticks) (sample : Level), ltuStep .release tcnt sample = .run tcnt) ∧
      (accepts (portOf s).start s = false → isIllegal s.st = false →
        ¬ (s.st = .check ∧ s.presc = s.cfg.clkPerUs - 1) → SameSequencer t s)

/-- 40_line_transport.md R114 in START_LOW, 41_decoder_sequence.md R141: DRIVE_LOW d. The sample is not read. -/
def Obligations.DriveLowTimesTheStartPulse : Prop :=
  ∀ (s : State) (d : Ticks), (portOf s).rst = false → d ≠ 0#16 →
    ∃ t, exec (.driveLow d) s = .next t ∧ t.rdata = regView s (portOf s).rsel ∧
      EdgeFrame (.driveLow d) (accepts (portOf s).start s) s t ∧
      (s.st = .startLow → s.presc = s.cfg.clkPerUs - 1 →
        SameSequencer t
          (if s.tcnt + 1#16 = d then { s with st := .startHigh, tcnt := 0#16 } else { s with tcnt := s.tcnt + 1#16 })) ∧
      (isIllegal s.st = false → accepts (portOf s).start s = false →
        (s.presc ≠ s.cfg.clkPerUs - 1 ∨ isBusy s.st = false) → SameSequencer t s)

/-- 40_line_transport.md R115 in START_HIGH, 41_decoder_sequence.md R142: DRIVE_HIGH d. The sample is not read. -/
def Obligations.DriveHighTimesTheReleasePulse : Prop :=
  ∀ (s : State) (d : Ticks), (portOf s).rst = false → d ≠ 0#16 →
    ∃ t, exec (.driveHigh d) s = .next t ∧ t.rdata = regView s (portOf s).rsel ∧
      EdgeFrame (.driveHigh d) (accepts (portOf s).start s) s t ∧
      (s.st = .startHigh → s.presc = s.cfg.clkPerUs - 1 →
        SameSequencer t
          (if s.tcnt + 1#16 = d then { s with st := .awaitAck, tcnt := 0#16 } else { s with tcnt := s.tcnt + 1#16 })) ∧
      (isIllegal s.st = false → accepts (portOf s).start s = false →
        (s.presc ≠ s.cfg.clkPerUs - 1 ∨ isBusy s.st = false) → SameSequencer t s)

/-- 40_line_transport.md R116 in AWAIT_ACK and BIT_LOW, 41_decoder_sequence.md R143 and R145, 60_exceptions.md R213:
WAIT_LOW t. A low sample succeeds, at the bound too; a high sample at the bound fails the transaction. -/
def Obligations.WaitLowSucceedsTimesOutOrGoesOn : Prop :=
  ∀ (s : State) (t16 : Ticks), (portOf s).rst = false →
    ∃ t, exec (.waitLow t16) s = .next t ∧ t.rdata = regView s (portOf s).rsel ∧
      EdgeFrame (.waitLow t16) (accepts (portOf s).start s) s t ∧
      (s.st = .awaitAck → s.presc = s.cfg.clkPerUs - 1 →
        SameSequencer t
          (if s.sync2 = false then { s with st := .ackLow, tcnt := 0#16 }
            else if s.tcnt = t16 then
              { s with st := .failed, outcome := .handshakeTimeout, tcnt := 0#16, shreg := 0#40 }
            else { s with tcnt := s.tcnt + 1#16 })) ∧
      (s.st = .bitLow → s.presc = s.cfg.clkPerUs - 1 →
        SameSequencer t
          (if s.sync2 = false then { s with st := .bitHigh, tcnt := 0#16 }
            else if s.tcnt = t16 then
              { s with st := .failed, outcome := .bitTimeout, tcnt := 0#16, shreg := 0#40 }
            else { s with tcnt := s.tcnt + 1#16 })) ∧
      (isIllegal s.st = false → accepts (portOf s).start s = false →
        (s.presc ≠ s.cfg.clkPerUs - 1 ∨ isBusy s.st = false) → SameSequencer t s)

/-- 40_line_transport.md R117 in ACK_LOW and BIT_HIGH, 41_decoder_sequence.md R144 and R146, 60_exceptions.md R213:
WAIT_HIGH t. The sample that ends BIT_HIGH is counted: the measurement starts at 1. -/
def Obligations.WaitHighSucceedsTimesOutOrGoesOn : Prop :=
  ∀ (s : State) (t16 : Ticks), (portOf s).rst = false →
    ∃ t, exec (.waitHigh t16) s = .next t ∧ t.rdata = regView s (portOf s).rsel ∧
      EdgeFrame (.waitHigh t16) (accepts (portOf s).start s) s t ∧
      (s.st = .ackLow → s.presc = s.cfg.clkPerUs - 1 →
        SameSequencer t
          (if s.sync2 = true then { s with st := .bitLow, tcnt := 0#16 }
            else if s.tcnt = t16 then
              { s with st := .failed, outcome := .handshakeTimeout, tcnt := 0#16, shreg := 0#40 }
            else { s with tcnt := s.tcnt + 1#16 })) ∧
      (s.st = .bitHigh → s.presc = s.cfg.clkPerUs - 1 →
        SameSequencer t
          (if s.sync2 = true then { s with st := .bitMeas, tcnt := 1#16 }
            else if s.tcnt = t16 then
              { s with st := .failed, outcome := .bitTimeout, tcnt := 0#16, shreg := 0#40 }
            else { s with tcnt := s.tcnt + 1#16 })) ∧
      (isIllegal s.st = false → accepts (portOf s).start s = false →
        (s.presc ≠ s.cfg.clkPerUs - 1 ∨ isBusy s.st = false) → SameSequencer t s)

/-- 40_line_transport.md R118 in BIT_MEAS, 41_decoder_sequence.md R147 and R150, 42_checksum_frame.md R170 and R171,
60_exceptions.md R215 items 4 and 5: MEASURE_HIGH c. A low sample beats the ceiling, and bit 39 leads to CHECK either way. -/
def Obligations.MeasureHighTakesTheBit : Prop :=
  ∀ (s : State) (c : Ticks), (portOf s).rst = false → 2 ≤ c.toNat →
    ∃ t, exec (.measureHigh c) s = .next t ∧ t.rdata = regView s (portOf s).rsel ∧
      EdgeFrame (.measureHigh c) (accepts (portOf s).start s) s t ∧
      (s.st = .bitMeas → s.presc = s.cfg.clkPerUs - 1 →
        SameSequencer t
          (if s.sync2 = false then
            { s with
              shreg := cat 40 (s.shreg.extractLsb' 0 39) (BitVec.ofBool (decide (s.tcnt.toNat > s.cfg.tThresh)))
              bidx := s.bidx + 1#6
              tcnt := 0#16
              st := if s.bidx + 1#6 = 40#6 then .check else .bitHigh }
          else if s.tcnt + 1#16 = c then
            { s with
              shreg := cat 40 (s.shreg.extractLsb' 0 39) (BitVec.ofBool (decide (c.toNat > s.cfg.tThresh)))
              bidx := s.bidx + 1#6
              tcnt := 0#16
              st := if s.bidx + 1#6 = 40#6 then .check else .bitLow }
          else { s with tcnt := s.tcnt + 1#16 })) ∧
      (isIllegal s.st = false → accepts (portOf s).start s = false →
        (s.presc ≠ s.cfg.clkPerUs - 1 ∨ isBusy s.st = false) → SameSequencer t s)

/-- 40_line_transport.md R110, R112, R113 to R118: what an LTU command leaves alone in every state, in a cycle in which no
READ is accepted. In a cycle that is no tick it leaves the whole sequencer alone; in a tick it can write the counter, and
each other register changes only where the rule of the state says so: the state register of a completed command,
`bidx` and `shreg` at the end of a measurement, `outcome` and `shreg` at a failure, the result at a match. It also covers
the pairs of state and command that 30_encoding.md R89 never makes: of those it states the model's reading (log entry 12,
DESIGN CHOICE). -/
def Obligations.LtuCommandFrame : Prop :=
  ∀ (i : Instr) (s t : State), i.format = .ltu → exec i s = .next t → (portOf s).rst = false →
    accepts (portOf s).start s = false → isIllegal s.st = false →
    EdgeFrame i false s t ∧ t.rdata = regView s (portOf s).rsel ∧
    (s.presc ≠ s.cfg.clkPerUs - 1 → SameSequencer t s) ∧
    (s.st ≠ .bitMeas → t.bidx = s.bidx) ∧
    (s.st ≠ .bitMeas → t.st ≠ .failed → t.shreg = s.shreg) ∧
    (t.st = s.st → t.outcome = s.outcome ∧ t.bidx = s.bidx ∧ t.shreg = s.shreg ∧ t.resFrame = s.resFrame) ∧
    (s.st ≠ .check → t.resFrame = s.resFrame) ∧
    (t.st ≠ .failed → s.st ≠ .check → t.outcome = s.outcome) ∧
    (t.st ≠ s.st → t.tcnt = 0#16 ∨ (s.st = .bitHigh ∧ t.st = .bitMeas ∧ t.tcnt = 1#16) ∨
      (s.st = .check ∧ t.tcnt = s.tcnt))

/-- 30_encoding.md R90, 93_implementation_defined.md I4: an operand R90 reserves is refused by name, with no next state. -/
def Obligations.ReservedOperandsAreRefused : Prop :=
  ∀ s : State, (portOf s).rst = false →
    exec (.driveLow 0#16) s = .refused (.reservedLtuWord .reservedDrive) ∧
    exec (.driveHigh 0#16) s = .refused (.reservedLtuWord .reservedDrive) ∧
    ∀ c : Ticks, c.toNat < 2 → exec (.measureHigh c) s = .refused (.reservedLtuWord .reservedCeiling)

/-- 40_line_transport.md R114, R115, R119: a drive entered with `tcnt` = 0 lasts exactly `d` ticks, whatever the line does. -/
def Obligations.DriveLastsExactlyItsDuration : Prop :=
  ∀ (d : Ticks) (samples : List Level), d ≠ 0#16 →
    (d.toNat ≤ samples.length → ltuRun (.driveLow d) 0#16 samples = some (.ok, d.toNat) ∧
      ltuRun (.driveHigh d) 0#16 samples = some (.ok, d.toNat)) ∧
    (samples.length < d.toNat → ltuRun (.driveLow d) 0#16 samples = none ∧
      ltuRun (.driveHigh d) 0#16 samples = none)

/-- 40_line_transport.md R116: a wait for low entered with `tcnt` = 0 succeeds at the first low sample among `t` + 1, and
times out at the (`t` + 1)-th consecutive high sample. -/
def Obligations.WaitLowWindow : Prop :=
  ∀ (t16 : Ticks) (r : Nat) (rest : List Level),
    ltuRun (.waitLow t16) 0#16 (List.replicate r true ++ false :: rest) =
      if r ≤ t16.toNat then some (.ok, r + 1) else some (.timeout, t16.toNat + 1)

/-- 40_line_transport.md R117: the same with the levels swapped. -/
def Obligations.WaitHighWindow : Prop :=
  ∀ (t16 : Ticks) (l : Nat) (rest : List Level),
    ltuRun (.waitHigh t16) 0#16 (List.replicate l false ++ true :: rest) =
      if l ≤ t16.toNat then some (.ok, l + 1) else some (.timeout, t16.toNat + 1)

/-- 40_line_transport.md R118: with the high phase's `h` samples counted from the one that ended WAIT_HIGH, the
measurement gives `min(h, c)`, after `h` ticks on the first low sample or after `c` - 1 ticks at the ceiling. -/
def Obligations.MeasurementIsMinOfLengthAndCeiling : Prop :=
  ∀ (c : Ticks) (h : Nat) (rest : List Level), 2 ≤ c.toNat → 1 ≤ h →
    ltuRun (.measureHigh c) 1#16 (List.replicate (h - 1) true ++ false :: rest) =
      if h < c.toNat then some (.meas (BitVec.ofNat 16 (min h c.toNat)) true, h)
      else some (.meas (BitVec.ofNat 16 (min h c.toNat)) false, c.toNat - 1)

/-- 40_line_transport.md R111: the pad outputs of each command; they are those of the current command, whatever `tick` is;
and the block drives the line only in START_LOW and START_HIGH, low in the first and high in the second. -/
def Obligations.LineIsDrivenOnlyInTheStartPulse : Prop :=
  (∀ x : Ticks,
    padEnable (.driveLow x) = true ∧ padOut (.driveLow x) = false ∧
    padEnable (.driveHigh x) = true ∧ padOut (.driveHigh x) = true ∧
    padEnable (.waitLow x) = false ∧ padOut (.waitLow x) = false ∧
    padEnable (.waitHigh x) = false ∧ padOut (.waitHigh x) = false ∧
    padEnable (.measureHigh x) = false ∧ padOut (.measureHigh x) = false ∧
    padEnable .release = false ∧ padOut .release = false) ∧
  (∀ (s : State) (cmd : Instr), currentCommand s = .ok cmd → lineOe s = padEnable cmd ∧ lineOut s = padOut cmd) ∧
  (∀ s : State, s.cfg.legal = true →
    (lineOe s = true ↔ s.st = .startLow ∨ s.st = .startHigh) ∧ (lineOut s = true ↔ s.st = .startHigh))

/-- 30_encoding.md R89: with legal parameters the command of each state is the one the table gives, and with the default
parameters its word is the one printed there. -/
def Obligations.CommandTable : Prop :=
  ∀ s : State, s.cfg.legal = true →
    currentCommand s = .ok
      (match s.st with
        | .idle => .release
        | .startLow => .driveLow (BitVec.ofNat 16 s.cfg.tStartLow)
        | .startHigh => .driveHigh (BitVec.ofNat 16 s.cfg.tRelHigh)
        | .awaitAck => .waitLow (BitVec.ofNat 16 s.cfg.tAckTo)
        | .ackLow => .waitHigh (BitVec.ofNat 16 s.cfg.tAckTo)
        | .bitLow => .waitLow (BitVec.ofNat 16 (if s.bidx = 0#6 then s.cfg.tBit0LowTo else s.cfg.tBitTo))
        | .bitHigh => .waitHigh (BitVec.ofNat 16 s.cfg.tBitTo)
        | .bitMeas => .measureHigh (BitVec.ofNat 16 s.cfg.tCap)
        | .check => .release
        | .done => .release
        | .failed => .release
        | .illegal _ => .release) ∧
    (s.cfg = Params.default →
      (s.st = .startLow → commandWord s.cfg s.bidx s.st = 0x24E20#19) ∧
      (s.st = .startHigh → commandWord s.cfg s.bidx s.st = 0x3001E#19) ∧
      (s.st = .awaitAck → commandWord s.cfg s.bidx s.st = 0x40064#19) ∧
      (s.st = .ackLow → commandWord s.cfg s.bidx s.st = 0x50064#19) ∧
      (s.st = .bitLow → s.bidx = 0#6 → commandWord s.cfg s.bidx s.st = 0x40064#19) ∧
      (s.st = .bitLow → s.bidx ≠ 0#6 → commandWord s.cfg s.bidx s.st = 0x40046#19) ∧
      (s.st = .bitHigh → commandWord s.cfg s.bidx s.st = 0x50046#19) ∧
      (s.st = .bitMeas → commandWord s.cfg s.bidx s.st = 0x70078#19) ∧
      (isBusy s.st = false ∨ s.st = .check → commandWord s.cfg s.bidx s.st = 0x00000#19))

/-! ### The sequence, the frame and the checksum -/

/-- 42_checksum_frame.md R173 to R175, 41_decoder_sequence.md R148: a tick of CHECK compares byte 4 with the sum of bytes 0
to 3 mod 256; a match publishes the frame, a mismatch takes the failure path. -/
def Obligations.CheckPublishesOrFails : Prop :=
  ∀ s : State, (portOf s).rst = false → s.st = .check → s.presc = s.cfg.clkPerUs - 1 →
    ∃ t, exec .release s = .next t ∧ EdgeFrame .release false s t ∧
      SameSequencer t
        (if ((frameByte s.shreg 0).toNat + (frameByte s.shreg 1).toNat + (frameByte s.shreg 2).toNat
            + (frameByte s.shreg 3).toNat) % 256 = (frameByte s.shreg 4).toNat
          then { s with st := .done, outcome := .success, resFrame := s.shreg }
          else { s with st := .failed, outcome := .checksumMismatch, tcnt := 0#16, shreg := 0#40 })

/-- 42_checksum_frame.md R171, 30_encoding.md R84: after 40 bits have been shifted in, `shreg[39 - i]` is the i-th bit
received, whatever was there before. -/
def Obligations.FirstBitEndsOnTop : Prop :=
  ∀ (v : Frame) (bits : List Bool), bits.length = 40 →
    ∀ i, i < 40 → (bits.foldl shiftIn v).getLsbD (39 - i) = bits.getD i false

/-- 42_checksum_frame.md R179, its six items: every single-bit error is rejected; the same bit raised in byte 0 and lowered
in byte 1 is not detected; and the four frames it names. -/
def Obligations.ChecksumDetectsSingleBitErrors : Prop :=
  (∀ (v : Frame) (k : Nat), k < 40 → checksumOk v = true → checksumOk (v ^^^ (1#40 <<< k)) = false) ∧
  (∀ (v : Frame) (j : Nat), j < 8 → v.getLsbD (32 + j) = false → v.getLsbD (24 + j) = true →
    payloadSum (v ^^^ (1#40 <<< (32 + j)) ^^^ (1#40 <<< (24 + j))) = payloadSum v ∧
    checksumOk (v ^^^ (1#40 <<< (32 + j)) ^^^ (1#40 <<< (24 + j))) = checksumOk v) ∧
  checksumOk (frameOf 0 0 0 0 0) = true ∧ checksumOk (frameOf 255 255 255 255 255) = false ∧
  checksumOk (frameOf 55 0 24 0 79) = true ∧ checksumOk (frameOf 55 0 24 0 80) = false ∧
  checksumOk (frameOf 200 100 0 0 44) = true

/-- 41_decoder_sequence.md R141, R142, 40_line_transport.md R121: the start condition takes T_START_LOW + T_REL_HIGH ticks,
whatever is sampled, and ends in AWAIT_ACK. -/
def Obligations.StartConditionIgnoresTheLine : Prop :=
  ∀ (s : State) (samples : List Level), s.cfg.legal = true → s.st = .startLow → s.tcnt = 0#16 →
    samples.length = s.cfg.tStartLow + s.cfg.tRelHigh →
    tickRun samples s = { s with st := .awaitAck, tcnt := 0#16 }

/-- 41_decoder_sequence.md R152: the handshake windows, from AWAIT_ACK with nothing captured. -/
def Obligations.HandshakeWindows : Prop :=
  ∀ (s : State) (r l a : Nat), s.cfg.legal = true → s.st = .awaitAck → s.tcnt = 0#16 → s.bidx = 0#6 →
    1 ≤ l → 1 ≤ a →
    (r ≤ s.cfg.tAckTo → l ≤ s.cfg.tAckTo + 1 → a ≤ s.cfg.tBit0LowTo + 1 →
      tickRun (ackSamples r l a) s = { s with st := .bitHigh, tcnt := 0#16 }) ∧
    (s.cfg.tAckTo < r →
      tickRun (ackSamples r l a) s = raiseFailure .handshakeTimeout s ∧
      tickRun ((ackSamples r l a).take (s.cfg.tAckTo + 1)) s = raiseFailure .handshakeTimeout s) ∧
    (r ≤ s.cfg.tAckTo → s.cfg.tAckTo + 1 < l →
      tickRun (ackSamples r l a) s = raiseFailure .handshakeTimeout s) ∧
    (r ≤ s.cfg.tAckTo → l ≤ s.cfg.tAckTo + 1 → s.cfg.tBit0LowTo + 1 < a →
      tickRun (ackSamples r l a) s = raiseFailure .bitTimeout s)

/-- 41_decoder_sequence.md R153: one bit's windows, for a high phase that ends below the ceiling, and a low phase too
long. -/
def Obligations.BitWindow : Prop :=
  ∀ (s : State) (lw h : Nat), s.cfg.legal = true → s.st = .bitHigh → s.tcnt = 0#16 → s.bidx.toNat ≤ 39 →
    1 ≤ lw → 1 ≤ h →
    (lw ≤ s.cfg.tBitTo + 1 → h < s.cfg.tCap →
      tickRun (bitSamples lw h) s =
        { s with
          shreg := shiftIn s.shreg (decide (s.cfg.tThresh < h))
          bidx := s.bidx + 1#6
          tcnt := 0#16
          st := if s.bidx = 39#6 then .check else .bitHigh }) ∧
    (s.cfg.tBitTo + 1 < lw → tickRun (bitSamples lw h) s = raiseFailure .bitTimeout s)

/-- 41_decoder_sequence.md R153, the capped measurement: the bit is the decision on T_CAP. Before bit 39, a line high for at
most T_BIT_TO samples more is taken as the next bit's wait for low, a longer one fails the transaction in that bit. In
bit 39 the capture ends in CHECK at the ceiling, however long the line stays high (60_exceptions.md R215 item 5). -/
def Obligations.CappedBitWindow : Prop :=
  ∀ (s : State) (lw h : Nat), s.cfg.legal = true → s.st = .bitHigh → s.tcnt = 0#16 → s.bidx.toNat ≤ 39 →
    1 ≤ lw → lw ≤ s.cfg.tBitTo + 1 → s.cfg.tCap ≤ h →
    (s.bidx.toNat ≤ 38 → h ≤ s.cfg.tCap + s.cfg.tBitTo →
      tickRun (bitSamples lw h) s =
        { s with
          shreg := shiftIn s.shreg (decide (s.cfg.tThresh < s.cfg.tCap))
          bidx := s.bidx + 1#6
          tcnt := 0#16
          st := .bitHigh }) ∧
    (s.bidx.toNat ≤ 38 → s.cfg.tCap + s.cfg.tBitTo < h →
      tickRun (bitSamples lw h) s = raiseFailure .bitTimeout { s with bidx := s.bidx + 1#6 }) ∧
    (s.bidx.toNat = 39 →
      tickRun (List.replicate (lw - 1) false ++ List.replicate s.cfg.tCap true) s =
        { s with
          shreg := shiftIn s.shreg (decide (s.cfg.tThresh < s.cfg.tCap))
          bidx := 40#6
          tcnt := 0#16
          st := .check } ∧
      (∀ next : Level, tickRun ((List.replicate (lw - 1) false ++ List.replicate s.cfg.tCap true) ++ [next]) s =
        tickRun ((List.replicate (lw - 1) false ++ List.replicate s.cfg.tCap true) ++ [!next]) s))

/-- 41_decoder_sequence.md R153 with 30_encoding.md R84: forty bits within R153's windows, capped high phases included, are
captured in order, the first on top, each 1 exactly when min(H, T_CAP) is greater than T_THRESH. Bits 0 to 38 may be
high for up to T_CAP + T_BIT_TO samples, bit 39 for any number; its samples end where its measurement does. -/
def Obligations.FortyBitsAreCapturedInOrder : Prop :=
  ∀ (s : State) (bits : List (Nat × Nat)) (last : Nat × Nat),
    s.cfg.legal = true → s.st = .bitHigh → s.tcnt = 0#16 → s.bidx = 0#6 → bits.length = 39 →
    (∀ p ∈ bits, 1 ≤ p.1 ∧ p.1 ≤ s.cfg.tBitTo + 1 ∧ 1 ≤ p.2 ∧ p.2 ≤ s.cfg.tCap + s.cfg.tBitTo) →
    1 ≤ last.1 → last.1 ≤ s.cfg.tBitTo + 1 → 1 ≤ last.2 →
    ∃ v : Frame,
      tickRun (frameSamples bits ++ lastBitSamples s.cfg last.1 last.2) s =
        { s with st := .check, tcnt := 0#16, bidx := 40#6, shreg := v } ∧
      ∀ i, i < 40 →
        v.getLsbD (39 - i) = decide (s.cfg.tThresh < min ((bits ++ [last]).getD i (0, 0)).2 s.cfg.tCap)

/-- 41_decoder_sequence.md R140, R141 to R150, R152, R153, 42_checksum_frame.md R173 to R175, 70_reset_and_hazards.md R252:
a whole transaction, tick by tick, from acceptance. With the acknowledgement and every bit within R152's and R153's
windows, capped high phases included, it takes the ticks of R252's table and ends in DONE with the frame, or in FAILED
if the checksum of the frame does not match. -/
def Obligations.TransactionDecodesTheFrame : Prop :=
  ∀ (s : State) (start : List Level) (r l a : Nat) (bits : List (Nat × Nat)) (last : Nat × Nat) (next : Level),
    s.cfg.legal = true → s.st = .startLow → s.tcnt = 0#16 → s.bidx = 0#6 →
    start.length = s.cfg.tStartLow + s.cfg.tRelHigh →
    r ≤ s.cfg.tAckTo → 1 ≤ l → l ≤ s.cfg.tAckTo + 1 → 1 ≤ a → a ≤ s.cfg.tBit0LowTo + 1 →
    bits.length = 39 →
    (∀ p ∈ bits, 1 ≤ p.1 ∧ p.1 ≤ s.cfg.tBitTo + 1 ∧ 1 ≤ p.2 ∧ p.2 ≤ s.cfg.tCap + s.cfg.tBitTo) →
    1 ≤ last.1 → last.1 ≤ s.cfg.tBitTo + 1 → 1 ≤ last.2 →
    (start ++ (ackSamples r l a ++ ((frameSamples bits ++ lastBitSamples s.cfg last.1 last.2) ++ [next]))).length =
      s.cfg.tStartLow + s.cfg.tRelHigh + (r + 1) + l + a
        + ((bits.map (fun p => p.1 + p.2)).sum + (last.1 + min last.2 (s.cfg.tCap - 1))) + 1 ∧
    ∃ v : Frame,
      (∀ i, i < 40 →
        v.getLsbD (39 - i) = decide (s.cfg.tThresh < min ((bits ++ [last]).getD i (0, 0)).2 s.cfg.tCap)) ∧
      tickRun (start ++ (ackSamples r l a ++ ((frameSamples bits ++ lastBitSamples s.cfg last.1 last.2) ++ [next]))) s =
        (if checksumOk v = true then
          { s with st := .done, outcome := .success, tcnt := 0#16, bidx := 40#6, shreg := v, resFrame := v }
        else
          { s with st := .failed, outcome := .checksumMismatch, tcnt := 0#16, bidx := 40#6, shreg := 0#40 })

/-! ### Failures and results -/

/-- 60_exceptions.md R213, R154: whichever step enters FAILED records a failure kind, clears the counter and the captured
bits, and keeps `bidx` and `res_frame`. -/
def Obligations.EveryFailureTakesTheFailurePath : Prop :=
  ∀ s t : State, step s = .next t → s.st ≠ .failed → t.st = .failed →
    (∃ kind, t.outcome = failureTag kind) ∧ t.tcnt = 0#16 ∧ t.shreg = 0#40 ∧
    t.bidx = s.bidx ∧ t.resFrame = s.resFrame ∧ lineOe t = false ∧ busyFlag t = false ∧ doneFlag t = true

/-- 60_exceptions.md R211: the complete list of what raises which kind. -/
def Obligations.FailureCauses : Prop :=
  ∀ s t : State, s.cfg.legal = true → step s = .next t → s.st ≠ .failed →
    (t.st = .failed ∧ t.outcome = .handshakeTimeout ↔
      (portOf s).rst = false ∧ s.presc = s.cfg.clkPerUs - 1 ∧ s.tcnt.toNat = s.cfg.tAckTo ∧
        (s.st = .awaitAck ∧ s.sync2 = true ∨ s.st = .ackLow ∧ s.sync2 = false)) ∧
    (t.st = .failed ∧ t.outcome = .bitTimeout ↔
      (portOf s).rst = false ∧ s.presc = s.cfg.clkPerUs - 1 ∧
        (s.st = .bitLow ∧ s.tcnt.toNat = (if s.bidx = 0#6 then s.cfg.tBit0LowTo else s.cfg.tBitTo) ∧ s.sync2 = true ∨
          s.st = .bitHigh ∧ s.tcnt.toNat = s.cfg.tBitTo ∧ s.sync2 = false)) ∧
    (t.st = .failed ∧ t.outcome = .checksumMismatch ↔
      (portOf s).rst = false ∧ s.presc = s.cfg.clkPerUs - 1 ∧ s.st = .check ∧ checksumOk s.shreg = false) ∧
    (t.st = .failed → t.outcome = .handshakeTimeout ∨ t.outcome = .bitTimeout ∨ t.outcome = .checksumMismatch)

/-- 42_checksum_frame.md R178: only a checksum match writes `res_frame` with captured data. -/
def Obligations.OnlyAMatchPublishes : Prop :=
  ∀ s t : State, step s = .next t →
    t.resFrame = s.resFrame ∨
      (t.resFrame = 0#40 ∧
        ((portOf s).rst = true ∨ ((portOf s).start = true ∧ (s.st = .idle ∨ s.st = .done ∨ s.st = .failed)))) ∨
      (s.st = .check ∧ checksumOk s.shreg = true ∧ t.resFrame = s.shreg ∧ t.outcome = .success ∧ t.st = .done)

/-- 41_decoder_sequence.md R149, 60_exceptions.md R216: IDLE, DONE and FAILED are left only by acceptance and reset. -/
def Obligations.QuiescentStatesHold : Prop :=
  ∀ s : State, (s.st = .idle ∨ s.st = .done ∨ s.st = .failed) → (portOf s).rst = false → (portOf s).start = false →
    ∃ t, step s = .next t ∧ currentCommand s = .ok .release ∧ SameSequencer t s

/-- 41_decoder_sequence.md R140, 43_host_interface.md R193: in a busy state with `rst` = 0 the host inputs change nothing
but what `rdata` shows. -/
def Obligations.HostCannotDisturbATransaction : Prop :=
  ∀ (s : State) (start' : Bool) (rsel' : BitVec 2) (rest : List CycleInput) (p : CycleInput),
    isBusy s.st = true → p.rst = false →
    (∃ t u, step { s with inputs := p :: rest } = .next t ∧
      step { s with inputs := { p with start := start', rsel := rsel' } :: rest } = .next u ∧
      { t with rdata := u.rdata } = u) ∨
    (∃ why, step { s with inputs := p :: rest } = .refused why ∧
      step { s with inputs := { p with start := start', rsel := rsel' } :: rest } = .refused why)

/-! ### Steps, ticks and time -/

/-- The step runs the host's instruction (20_memory.md R61, 30_encoding.md R91, log entry 2): when the byte of the host
word at the ports decodes to `i`, the step is exec of `i`. -/
def Obligations.StepRunsTheHostWord : Prop :=
  ∀ (s : State) (i : Instr) (rest : List Byte),
    decode .host (hostBytes (hostFields (portOf s).start (portOf s).rsel)) = .ok (i, rest) → step s = exec i s

/-- The step performs the LTU command of the sequencer state (30_encoding.md R89, log entry 2): when the bytes of that
state's word decode to `i`, the step is exec of `i`; and when they are reserved, the step refuses. -/
def Obligations.StepRunsTheLtuCommand : Prop :=
  ∀ s : State,
    (∀ (i : Instr) (rest : List Byte),
      decode .ltu (ltuBytes (commandWord s.cfg s.bidx s.st)) = .ok (i, rest) → step s = exec i s) ∧
    (∀ why, decode .ltu (ltuBytes (commandWord s.cfg s.bidx s.st)) = .error why → (portOf s).rst = false →
      step s = .refused (.reservedLtuWord why))

/-- 00_scope.md R29: in a cycle with no reset and no acceptance the sequencer is the tick-level machine on the sample, and
between ticks it holds. -/
def Obligations.CyclesRefineTheTickMachine : Prop :=
  ∀ s t : State, step s = .next t → (portOf s).rst = false → isIllegal s.st = false →
    ¬ ((portOf s).start = true ∧ acceptsRead s.st = true) →
    (s.presc = s.cfg.clkPerUs - 1 → SameSequencer t (tickStep s.sync2 s)) ∧
    (s.presc ≠ s.cfg.clkPerUs - 1 → SameSequencer t s)

/-- 10_state.md R37, 00_scope.md R29: `n` cycles without reset or acceptance after the prescaler stood at 0, it stands at `n`
mod CLK_PER_US; so tick j is the cycle j * CLK_PER_US after acceptance. A host that holds `start` = 1 in a busy state
changes nothing of it (43_host_interface.md R191). In a state with an illegal code, which no step leads to, the
prescaler holds instead (30_encoding.md R81), so such a start is left out. -/
def Obligations.TicksComeEveryClkPerUsCycles : Prop :=
  ∀ (n : Nat) (s t : State), s.cfg.legal = true → s.presc = 0 → isIllegal s.st = false →
    (∀ m v, m < n → Host.Core.run core m s = .next v →
      (portOf v).rst = false ∧ ¬ ((portOf v).start = true ∧ acceptsRead v.st = true)) →
    Host.Core.run core n s = .next t →
    t.presc = n % s.cfg.clkPerUs ∧ (isTick t = true ↔ (n + 1) % s.cfg.clkPerUs = 0)

/-- 10_state.md R38, 70_reset_and_hazards.md R248, 00_scope.md R27: the sample is the line's level two cycles earlier, and
a line the block drives has the level it drives. In a state with an illegal code, which no step leads to, the
synchroniser holds instead (30_encoding.md R81), so such a first state is left out. -/
def Obligations.SampleIsTwoCyclesOld : Prop :=
  ∀ s t u : State, step s = .next t → step t = .next u → (portOf s).rst = false → (portOf t).rst = false →
    isIllegal s.st = false →
    (∀ level, (portOf s).line = .environment level →
      u.sync2 = (if lineOe s = true then lineOut s else level)) ∧
    (∀ level, (portOf s).line = .overridden level → u.sync2 = level)

/-- The invariant holds at reset. -/
def Obligations.InvariantHoldsAtReset : Prop := Inv State.reset ∧ ∀ p : Params, p.legal = true →
  ∃ s, State.elaborate p = .ok s ∧ Inv s ∧ s.cfg = p

/-- The invariant is kept by every step. -/
def Obligations.InvariantIsKept : Prop := ∀ s t : State, Inv s → step s = .next t → Inv t

/-- 10_state.md R44: its seven items hold of every state of the invariant, and so of every state a run from reset reaches,
whatever comes in at the ports. -/
def Obligations.ReachableStatesMeetTheirInvariants : Prop :=
  (∀ s : State, Inv s → ReachableFacts s) ∧
  (∀ (n : Nat) (t : State), Host.Core.run core n State.reset = .next t → ReachableFacts t)

/-- From reset, whatever happens at the ports, the block never stops, and its parameters never change (60_exceptions.md
R212, 93_implementation_defined.md section 1: no fault, nothing stuck; 00_scope.md R5). -/
def Obligations.BlockNeverStops : Prop :=
  ∀ (s : State) (n : Nat), Inv s → ∃ t, Host.Core.run core n s = .next t ∧ Inv t ∧ t.cfg = s.cfg

/-- 42_checksum_frame.md R173, R174, 10_state.md R40: in every state of the invariant a frame the host can see has a valid
checksum, and without SUCCESS the host sees nothing. -/
def Obligations.ShownFramesAreValid : Prop :=
  ∀ s t : State, Inv s → step s = .next t →
    (regView t 2#2 ≠ 0#32 ∨ regView t 3#2 ≠ 0#32 ∨ regView t 1#2 ≠ 0#32 ∨ fracNzFlag t = true →
      t.outcome = .success ∧ t.st = .done ∧
        ((frameByte t.resFrame 0).toNat + (frameByte t.resFrame 1).toNat + (frameByte t.resFrame 2).toNat
          + (frameByte t.resFrame 3).toNat) % 256 = (frameByte t.resFrame 4).toNat)

/-- 60_exceptions.md R212: every tick of a transaction brings its end nearer. -/
def Obligations.EveryTickMakesProgress : Prop :=
  ∀ s t : State, Inv s → isBusy s.st = true → (portOf s).rst = false → step s = .next t →
    (s.presc = s.cfg.clkPerUs - 1 → ticksLeft t < ticksLeft s) ∧
    (s.presc ≠ s.cfg.clkPerUs - 1 → ticksLeft t = ticksLeft s)

/-- 70_reset_and_hazards.md R253, 60_exceptions.md R212: from the acceptance of a READ, whatever the line and the host do,
the block is in DONE or FAILED within the bound of R253, unless a reset comes first; the bound is 30703 ticks with the
defaults. -/
def Obligations.TransactionEndsWithinTheBound : Prop :=
  (∀ (s : State) (rsel : BitVec 2), Inv s → acceptsRead s.st = true → (portOf s).rst = false →
    ∃ t, exec (.read rsel) s = .next t ∧ ticksLeft t = worstCase s.cfg ∧
      ∃ n u, n ≤ worstCase s.cfg * s.cfg.clkPerUs ∧ Host.Core.run core n t = .next u ∧
        (u.st = .done ∨ u.st = .failed ∨
          ∃ m v, m < n ∧ Host.Core.run core m t = .next v ∧ (portOf v).rst = true)) ∧
  (∀ clk, worstCase { Params.default with clkPerUs := clk } = 30703)

/-! ### Encodings -/

/-- 30_encoding.md R86, R87, R91: decoding an encoded well-formed instruction gives it back, every operand at every value
the encoding admits, and leaves the bytes after it. -/
def Obligations.DecodeOfEncode : Prop :=
  ∀ (i : Instr) (rest : List Byte), i.wf = true → decode i.format (encode i ++ rest) = .ok (i, rest)

/-- The other direction: what decodes is well-formed, of the format asked for, and its bytes are the bytes read. -/
def Obligations.EncodeOfDecode : Prop :=
  ∀ (f : WordFormat) (bytes : List Byte) (i : Instr) (rest : List Byte), decode f bytes = .ok (i, rest) →
    i.wf = true ∧ i.format = f ∧ encode i ++ rest = bytes

/-- 30_encoding.md R90: exactly the four listed kinds of LTU word are refused, each by its own name; and legal parameters lead to
no such word. -/
def Obligations.ReservedLtuWords : Prop :=
  (∀ (op : BitVec 2) (lvl : Bool) (arg : Ticks) (why : DecodeError),
    decodeLtu (ltuFields op lvl arg) = .error why ↔
      (op = 0#2 ∧ (lvl = true ∨ arg ≠ 0#16) ∧ why = .reservedRelease) ∨
      (op = 3#2 ∧ lvl = false ∧ why = .reservedMeasureLow) ∨
      (op = 1#2 ∧ arg = 0#16 ∧ why = .reservedDrive) ∨
      (op = 3#2 ∧ lvl = true ∧ arg.toNat < 2 ∧ why = .reservedCeiling)) ∧
  (∀ s : State, s.cfg.legal = true → ∃ i, currentCommand s = .ok i)

/-- 95_test_vectors.md section 2.8 and section 3: words of both formats, written out. -/
def Obligations.WordsOfTheVectors : Prop :=
  decodeTableWord 24 0x24E20 = some (.driveLow 20000#16) ∧ decodeTableWord 24 0x3001E = some (.driveHigh 30#16) ∧
  decodeTableWord 24 0x40064 = some (.waitLow 100#16) ∧ decodeTableWord 24 0x50046 = some (.waitHigh 70#16) ∧
  decodeTableWord 24 0x70078 = some (.measureHigh 120#16) ∧ decodeTableWord 24 0x00000 = some .release ∧
  decodeTableWord 24 0x10000 = none ∧ decodeTableWord 24 0x60078 = none ∧ decodeTableWord 24 0x20000 = none ∧
  decodeTableWord 8 0x4 = some (.read 0#2) ∧ decodeTableWord 8 0x0 = some .rdStatus ∧
  decodeTableWord 8 0x1 = some .rdReading ∧ decodeTableWord 8 0x2 = some .rdFrame0 ∧
  decodeTableWord 8 0x3 = some .rdFrame1

/-- The model's own fetch (log entry 4): an opcode-table word that decodes, placed where the next step takes its
instruction from, runs in that step and is not refused, if the state had a command before. -/
def Obligations.PlacedWordRuns : Prop :=
  ∀ (s : State) (i cmd : Instr) (nbits w : Nat), nbits = 8 ∨ nbits = 24 → currentCommand s = .ok cmd →
    decodeTableWord nbits w = some i →
    step (s.withFetchWord nbits w) = exec i (s.withFetchWord nbits w) ∧
    ∃ t, exec i (s.withFetchWord nbits w) = .next t
end

