-- ==== Sys2Proof/Laws/Word.lean ====
section
/-! SUPPORT. The bits of a concatenation, and the parts it was made of. -/

namespace Sys2Proof

/-- The bits of `{x, y}`. -/
theorem getLsbD_cat {a b n : Nat} (x : BitVec a) (y : BitVec b) (h : a + b = n) (i : Nat) :
    (cat n x y h).getLsbD i = if i < b then y.getLsbD i else x.getLsbD (i - b) := by
  simp [cat, BitVec.getLsbD_append]

/-- The low part of a concatenation. -/
theorem cat_low {a b n : Nat} (x : BitVec a) (y : BitVec b) (h : a + b = n) :
    (cat n x y h).extractLsb' 0 b = y := by
  apply BitVec.eq_of_getLsbD_eq
  intro i hi
  simp only [BitVec.getLsbD_extractLsb', hi, decide_true, Bool.true_and, Nat.zero_add, getLsbD_cat, if_true]

/-- The high part of a concatenation. -/
theorem cat_high {a b n : Nat} (x : BitVec a) (y : BitVec b) (h : a + b = n) :
    (cat n x y h).extractLsb' b a = x := by
  apply BitVec.eq_of_getLsbD_eq
  intro i hi
  have h1 : ¬ b + i < b := by omega
  simp only [BitVec.getLsbD_extractLsb', hi, decide_true, Bool.true_and, getLsbD_cat, h1, if_false,
    Nat.add_sub_cancel_left]

/-- A slice inside the low part. -/
theorem extract_cat_low {a b n s w : Nat} (x : BitVec a) (y : BitVec b) (h : a + b = n) (hs : s + w ≤ b) :
    (cat n x y h).extractLsb' s w = y.extractLsb' s w := by
  apply BitVec.eq_of_getLsbD_eq
  intro i hi
  have h1 : s + i < b := by omega
  simp only [BitVec.getLsbD_extractLsb', getLsbD_cat, h1, if_true]

/-- A slice inside the high part. -/
theorem extract_cat_high {a b n s w : Nat} (x : BitVec a) (y : BitVec b) (h : a + b = n) (hs : b ≤ s) :
    (cat n x y h).extractLsb' s w = x.extractLsb' (s - b) w := by
  apply BitVec.eq_of_getLsbD_eq
  intro i hi
  have h1 : ¬ s + i < b := by omega
  have h2 : s + i - b = s - b + i := by omega
  simp only [BitVec.getLsbD_extractLsb', getLsbD_cat, h1, if_false, h2]

/-- A vector is the concatenation of its two parts. -/
theorem cat_eta {a b n : Nat} (v : BitVec n) (h : a + b = n) :
    cat n (v.extractLsb' b a) (v.extractLsb' 0 b) h = v := by
  apply BitVec.eq_of_getLsbD_eq
  intro i hi
  rw [getLsbD_cat]
  split
  · rename_i h1; simp [h1]
  · rename_i h1
    have h2 : i - b < a := by omega
    have h3 : b + (i - b) = i := by omega
    simp [h2, h3]

end Sys2Proof
end

