-- ==== Sys2Proof/Laws/Decode.lean ====
section
/-! SUPPORT. The fields of the words: what each reads back from a word put together, and what the decoder makes of the
fields (30_encoding.md R86 to R91). -/

namespace Sys2Proof

theorem ltuFields_op (op : BitVec 2) (lvl : Bool) (arg : Ticks) :
    (ltuFields op lvl arg).extractLsb' 17 2 = op := by
  rw [ltuFields, extract_cat_high _ _ _ (by decide)]
  exact cat_high op (BitVec.ofBool lvl) rfl

theorem ltuFields_lvl (op : BitVec 2) (lvl : Bool) (arg : Ticks) :
    (ltuFields op lvl arg).getLsbD 16 = lvl := by
  simp only [ltuFields, getLsbD_cat]
  cases lvl <;> rfl

theorem ltuFields_arg (op : BitVec 2) (lvl : Bool) (arg : Ticks) :
    (ltuFields op lvl arg).extractLsb' 0 16 = arg := cat_low _ arg _

/-- Every LTU word is its three fields. -/
theorem ltuFields_eta (w : LtuWord) :
    ltuFields (w.extractLsb' 17 2) (w.getLsbD 16) (w.extractLsb' 0 16) = w := by
  apply BitVec.eq_of_getLsbD_eq
  intro i hi
  simp only [ltuFields, getLsbD_cat]
  split
  · rename_i h1; simp [h1]
  · split
    · rename_i h1 h2
      have h3 : i = 16 := by omega
      subst h3; simp
    · rename_i h1 h2
      have h3 : i - 16 - 1 < 2 := by omega
      have h4 : 17 + (i - 16 - 1) = i := by omega
      simp [h3, h4]

theorem hostFields_start (start : Bool) (rsel : BitVec 2) : (hostFields start rsel).getLsbD 2 = start := by
  simp only [hostFields, getLsbD_cat]
  cases start <;> rfl

theorem hostFields_rsel (start : Bool) (rsel : BitVec 2) :
    (hostFields start rsel).extractLsb' 0 2 = rsel := cat_low _ rsel _

/-- Every host word is its two fields. -/
theorem hostFields_eta (w : HostWord) : hostFields (w.getLsbD 2) (w.extractLsb' 0 2) = w := by
  revert w; decide

/-- What the decoder makes of the fields of a host word. -/
theorem decodeHost_fields (start : Bool) (rsel : BitVec 2) :
    decodeHost (hostFields start rsel) =
      if start then .read rsel
      else if rsel = 0#2 then .rdStatus
      else if rsel = 1#2 then .rdReading
      else if rsel = 2#2 then .rdFrame0
      else .rdFrame1 := by
  simp only [decodeHost, hostFields_start, hostFields_rsel]

/-- What the decoder makes of the fields of an LTU word. -/
theorem decodeLtu_fields (op : BitVec 2) (lvl : Bool) (arg : Ticks) :
    decodeLtu (ltuFields op lvl arg) =
      if op = 0#2 then
        if lvl = false ∧ arg = 0#16 then .ok .release else .error .reservedRelease
      else if op = 1#2 then
        if arg = 0#16 then .error .reservedDrive else .ok (if lvl then .driveHigh arg else .driveLow arg)
      else if op = 2#2 then .ok (if lvl then .waitHigh arg else .waitLow arg)
      else if lvl = false then .error .reservedMeasureLow
      else if arg.toNat < 2 then .error .reservedCeiling
      else .ok (.measureHigh arg) := by
  simp only [decodeLtu, ltuFields_op, ltuFields_lvl, ltuFields_arg]

/-- A well-formed instruction passes the check of R90. -/
theorem Instr.checked_of_wf {i : Instr} (h : i.wf = true) : i.checked = .ok i := by
  cases i <;> simp_all [Instr.wf, Instr.checked]
  omega

/-- What the LTU decoder gives is a well-formed LTU command. -/
theorem decodeLtu_ok {w : LtuWord} {i : Instr} (h : decodeLtu w = .ok i) : i.wf = true ∧ i.format = .ltu := by
  rw [← ltuFields_eta w, decodeLtu_fields] at h
  generalize w.extractLsb' 17 2 = op at h
  generalize w.getLsbD 16 = lvl at h
  generalize w.extractLsb' 0 16 = arg at h
  split at h
  · split at h <;> cases h
    simp [Instr.wf, Instr.format]
  · split at h
    · split at h <;> cases h
      cases lvl <;> simp_all [Instr.wf, Instr.format]
    · split at h
      · cases h; cases lvl <;> simp [Instr.wf, Instr.format]
      · split at h
        · cases h
        · split at h <;> cases h
          simp [Instr.wf, Instr.format]; omega

/-- Decoding the bytes of an LTU word is decoding the word. -/
theorem decode_ltuBytes (w : LtuWord) (rest : List Byte) :
    decode .ltu (ltuBytes w ++ rest) =
      (match decodeLtu w with | .ok i => .ok (i, rest) | .error e => .error e) := by
  have hw : cat 19 (cat 11 (w.extractLsb' 16 3) (w.extractLsb' 8 8)) (w.extractLsb' 0 8) = w := by
    have h11 : cat 11 (w.extractLsb' 16 3) (w.extractLsb' 8 8) = w.extractLsb' 8 11 := by
      apply BitVec.eq_of_getLsbD_eq
      intro i hi
      rw [getLsbD_cat]
      split
      · rename_i h1; simp [h1, hi]
      · rename_i h1
        have h2 : i - 8 < 3 := by omega
        have h3 : 16 + (i - 8) = 8 + i := by omega
        simp [h2, h3, hi]
    rw [h11]; exact cat_eta w _
  simp only [ltuBytes, List.cons_append, List.nil_append, decode, cat_high, cat_low, if_true, hw] <;>
    cases decodeLtu w <;> rfl

/-- Decoding the byte of a host word is decoding the word. -/
theorem decode_hostBytes (w : HostWord) (rest : List Byte) :
    decode .host (hostBytes w ++ rest) = .ok (decodeHost w, rest) := by
  simp only [hostBytes, List.cons_append, List.nil_append, decode, cat_high, cat_low, if_true]

end Sys2Proof
end

