-- ==== Sys2Proof/Laws/State.lean ====
section
/-! SUPPORT. One lemma per field for each update of State: the failure path, acceptance, reset and the clock edge. -/

namespace Sys2Proof.Machine

/-! `raise Failure(kind)` (60_exceptions.md R213) -/

@[simp] theorem raiseFailure_cfg (kind : FailureKind) (s : State) : (raiseFailure kind s).cfg = s.cfg := rfl
@[simp] theorem raiseFailure_st (kind : FailureKind) (s : State) : (raiseFailure kind s).st = .failed := rfl
@[simp] theorem raiseFailure_bidx (kind : FailureKind) (s : State) : (raiseFailure kind s).bidx = s.bidx := rfl
@[simp] theorem raiseFailure_shreg (kind : FailureKind) (s : State) : (raiseFailure kind s).shreg = 0#40 := rfl
@[simp] theorem raiseFailure_tcnt (kind : FailureKind) (s : State) : (raiseFailure kind s).tcnt = 0#16 := rfl
@[simp] theorem raiseFailure_presc (kind : FailureKind) (s : State) : (raiseFailure kind s).presc = s.presc := rfl
@[simp] theorem raiseFailure_sync1 (kind : FailureKind) (s : State) : (raiseFailure kind s).sync1 = s.sync1 := rfl
@[simp] theorem raiseFailure_sync2 (kind : FailureKind) (s : State) : (raiseFailure kind s).sync2 = s.sync2 := rfl
@[simp] theorem raiseFailure_outcome (kind : FailureKind) (s : State) : (raiseFailure kind s).outcome = failureTag kind := rfl
@[simp] theorem raiseFailure_resFrame (kind : FailureKind) (s : State) : (raiseFailure kind s).resFrame = s.resFrame := rfl
@[simp] theorem raiseFailure_rdata (kind : FailureKind) (s : State) : (raiseFailure kind s).rdata = s.rdata := rfl
@[simp] theorem raiseFailure_inputs (kind : FailureKind) (s : State) : (raiseFailure kind s).inputs = s.inputs := rfl
@[simp] theorem raiseFailure_cycle (kind : FailureKind) (s : State) : (raiseFailure kind s).cycle = s.cycle := rfl

/-! acceptance (43_host_interface.md R190) -/

@[simp] theorem acceptRead_cfg (s : State) : (acceptRead s).cfg = s.cfg := rfl
@[simp] theorem acceptRead_st (s : State) : (acceptRead s).st = .startLow := rfl
@[simp] theorem acceptRead_bidx (s : State) : (acceptRead s).bidx = 0#6 := rfl
@[simp] theorem acceptRead_shreg (s : State) : (acceptRead s).shreg = 0#40 := rfl
@[simp] theorem acceptRead_tcnt (s : State) : (acceptRead s).tcnt = 0#16 := rfl
@[simp] theorem acceptRead_presc (s : State) : (acceptRead s).presc = 0 := rfl
@[simp] theorem acceptRead_sync1 (s : State) : (acceptRead s).sync1 = s.sync1 := rfl
@[simp] theorem acceptRead_sync2 (s : State) : (acceptRead s).sync2 = s.sync2 := rfl
@[simp] theorem acceptRead_outcome (s : State) : (acceptRead s).outcome = .none := rfl
@[simp] theorem acceptRead_resFrame (s : State) : (acceptRead s).resFrame = 0#40 := rfl
@[simp] theorem acceptRead_rdata (s : State) : (acceptRead s).rdata = s.rdata := rfl
@[simp] theorem acceptRead_inputs (s : State) : (acceptRead s).inputs = s.inputs := rfl
@[simp] theorem acceptRead_cycle (s : State) : (acceptRead s).cycle = s.cycle := rfl

/-! the edge with `rst` = 1 (70_reset_and_hazards.md R240) -/

@[simp] theorem resetEdge_cfg (rsel : BitVec 2) (s : State) : (resetEdge rsel s).cfg = s.cfg := rfl
@[simp] theorem resetEdge_st (rsel : BitVec 2) (s : State) : (resetEdge rsel s).st = .idle := rfl
@[simp] theorem resetEdge_bidx (rsel : BitVec 2) (s : State) : (resetEdge rsel s).bidx = 0#6 := rfl
@[simp] theorem resetEdge_shreg (rsel : BitVec 2) (s : State) : (resetEdge rsel s).shreg = 0#40 := rfl
@[simp] theorem resetEdge_tcnt (rsel : BitVec 2) (s : State) : (resetEdge rsel s).tcnt = 0#16 := rfl
@[simp] theorem resetEdge_presc (rsel : BitVec 2) (s : State) : (resetEdge rsel s).presc = 0 := rfl
@[simp] theorem resetEdge_sync1 (rsel : BitVec 2) (s : State) : (resetEdge rsel s).sync1 = true := rfl
@[simp] theorem resetEdge_sync2 (rsel : BitVec 2) (s : State) : (resetEdge rsel s).sync2 = true := rfl
@[simp] theorem resetEdge_outcome (rsel : BitVec 2) (s : State) : (resetEdge rsel s).outcome = .none := rfl
@[simp] theorem resetEdge_resFrame (rsel : BitVec 2) (s : State) : (resetEdge rsel s).resFrame = 0#40 := rfl
@[simp] theorem resetEdge_rdata (rsel : BitVec 2) (s : State) : (resetEdge rsel s).rdata = regView s rsel := rfl
@[simp] theorem resetEdge_inputs (rsel : BitVec 2) (s : State) : (resetEdge rsel s).inputs = s.inputs.tail := rfl
@[simp] theorem resetEdge_cycle (rsel : BitVec 2) (s : State) : (resetEdge rsel s).cycle = s.cycle + 1 := rfl

/-! the edge with `rst` = 0 -/

@[simp] theorem clockEdge_cfg (start : Bool) (rsel : BitVec 2) (cmd : Instr) (s : State) : (clockEdge start rsel cmd s).cfg = (sequencerEdge start cmd s).cfg := rfl
@[simp] theorem clockEdge_st (start : Bool) (rsel : BitVec 2) (cmd : Instr) (s : State) : (clockEdge start rsel cmd s).st = (sequencerEdge start cmd s).st := rfl
@[simp] theorem clockEdge_bidx (start : Bool) (rsel : BitVec 2) (cmd : Instr) (s : State) : (clockEdge start rsel cmd s).bidx = (sequencerEdge start cmd s).bidx := rfl
@[simp] theorem clockEdge_shreg (start : Bool) (rsel : BitVec 2) (cmd : Instr) (s : State) : (clockEdge start rsel cmd s).shreg = (sequencerEdge start cmd s).shreg := rfl
@[simp] theorem clockEdge_tcnt (start : Bool) (rsel : BitVec 2) (cmd : Instr) (s : State) : (clockEdge start rsel cmd s).tcnt = (sequencerEdge start cmd s).tcnt := rfl
@[simp] theorem clockEdge_presc (start : Bool) (rsel : BitVec 2) (cmd : Instr) (s : State) : (clockEdge start rsel cmd s).presc = if isIllegal s.st then s.presc else prescNext (accepts start s) s := rfl
@[simp] theorem clockEdge_sync1 (start : Bool) (rsel : BitVec 2) (cmd : Instr) (s : State) : (clockEdge start rsel cmd s).sync1 = if isIllegal s.st then s.sync1 else lineLevel cmd (portOf s).line := rfl
@[simp] theorem clockEdge_sync2 (start : Bool) (rsel : BitVec 2) (cmd : Instr) (s : State) : (clockEdge start rsel cmd s).sync2 = if isIllegal s.st then s.sync2 else s.sync1 := rfl
@[simp] theorem clockEdge_outcome (start : Bool) (rsel : BitVec 2) (cmd : Instr) (s : State) : (clockEdge start rsel cmd s).outcome = (sequencerEdge start cmd s).outcome := rfl
@[simp] theorem clockEdge_resFrame (start : Bool) (rsel : BitVec 2) (cmd : Instr) (s : State) : (clockEdge start rsel cmd s).resFrame = (sequencerEdge start cmd s).resFrame := rfl
@[simp] theorem clockEdge_rdata (start : Bool) (rsel : BitVec 2) (cmd : Instr) (s : State) : (clockEdge start rsel cmd s).rdata = regView s rsel := rfl
@[simp] theorem clockEdge_inputs (start : Bool) (rsel : BitVec 2) (cmd : Instr) (s : State) : (clockEdge start rsel cmd s).inputs = s.inputs.tail := rfl
@[simp] theorem clockEdge_cycle (start : Bool) (rsel : BitVec 2) (cmd : Instr) (s : State) : (clockEdge start rsel cmd s).cycle = s.cycle + 1 := rfl

end Sys2Proof.Machine
end

