-- ==== Sys2Proof/Laws/Ops.lean ====
section
/-! SUPPORT. What each shared operation can do, said once: the LTU's results, the sequencer's rules, the cycle, the step. -/

namespace Sys2Proof.Machine

/-! ### Operands and flags -/

theorem tickArg_toNat {p : Nat} (h : p ≤ 65535) : (tickArg p).toNat = p := by
  simp only [tickArg, BitVec.toNat_ofNat]; omega

/-- Only IDLE, DONE and FAILED accept a READ (43_host_interface.md R190). -/
theorem acceptsRead_iff (st : SeqState) : acceptsRead st = true ↔ st = .idle ∨ st = .done ∨ st = .failed := by
  cases st <;> simp [acceptsRead, isTerminal]

/-- A busy state accepts no READ and has a legal code. -/
theorem busy_facts {st : SeqState} (h : isBusy st = true) :
    acceptsRead st = false ∧ isIllegal st = false ∧ isTerminal st = false := by
  cases st <;> simp_all [isBusy, acceptsRead, isIllegal, isTerminal]

theorem accepts_of_not {start : Bool} {s : State} (h : acceptsRead s.st = false) : accepts start s = false := by
  simp [accepts, h]

theorem isTick_iff (s : State) : isTick s = true ↔ s.presc = s.cfg.clkPerUs - 1 := by simp [isTick]

/-- A register read by number is one of the four registers (20_memory.md R62). -/
theorem regView_cases (s : State) (rsel : BitVec 2) :
    (rsel = 0#2 ∧ regView s rsel = statusReg s) ∨ (rsel = 1#2 ∧ regView s rsel = readingReg s) ∨
      (rsel = 2#2 ∧ regView s rsel = frame0Reg s) ∨ (rsel = 3#2 ∧ regView s rsel = frame1Reg s) := by
  have h : rsel = 0#2 ∨ rsel = 1#2 ∨ rsel = 2#2 ∨ rsel = 3#2 := by revert rsel; decide
  rcases h with rfl | rfl | rfl | rfl <;> simp [regView]

/-! ### The Line Transport unit -/

theorem ltuDrive_cases (d tcnt : Ticks) :
    (tcnt + 1#16 = d ∧ ltuDrive d tcnt = .ok) ∨ (tcnt + 1#16 ≠ d ∧ ltuDrive d tcnt = .run (tcnt + 1#16)) := by
  unfold ltuDrive; split <;> simp_all

theorem ltuWait_cases (level : Level) (t tcnt : Ticks) (sample : Level) :
    (sample = level ∧ ltuWait level t tcnt sample = .ok) ∨
      (sample = !level ∧ tcnt = t ∧ ltuWait level t tcnt sample = .timeout) ∨
      (sample = !level ∧ tcnt ≠ t ∧ ltuWait level t tcnt sample = .run (tcnt + 1#16)) := by
  unfold ltuWait; cases sample <;> cases level <;> by_cases h : tcnt = t <;> simp [h]

theorem ltuMeasure_cases (c tcnt : Ticks) (sample : Level) :
    (sample = false ∧ ltuMeasure c tcnt sample = .meas tcnt true) ∨
      (sample = true ∧ tcnt + 1#16 = c ∧ ltuMeasure c tcnt sample = .meas c false) ∨
      (sample = true ∧ tcnt + 1#16 ≠ c ∧ ltuMeasure c tcnt sample = .run (tcnt + 1#16)) := by
  unfold ltuMeasure; cases sample <;> by_cases h : tcnt + 1#16 = c <;> simp [h]

/-! ### The sequencer: what a tick never writes -/

theorem seqTick_frame (r : LtuResult) (s : State) :
    (seqTick r s).cfg = s.cfg ∧ (seqTick r s).presc = s.presc ∧ (seqTick r s).sync1 = s.sync1 ∧
      (seqTick r s).sync2 = s.sync2 ∧ (seqTick r s).rdata = s.rdata ∧ (seqTick r s).inputs = s.inputs ∧
      (seqTick r s).cycle = s.cycle := by
  unfold seqTick
  cases s.st
  case check => simp only [phaseCheck]; split <;> simp
  all_goals
    cases r <;> simp [phaseStartLow, phaseStartHigh, phaseAwaitAck, phaseAckLow, phaseBitLow, phaseBitHigh, phaseBitMeas]

theorem sequencerEdge_frame (start : Bool) (cmd : Instr) (s : State) :
    (sequencerEdge start cmd s).cfg = s.cfg := by
  unfold sequencerEdge
  split
  · simp
  · split
    · rfl
    · split
      · exact (seqTick_frame _ _).1
      · rfl

/-! ### The edge, by what happens at it (60_exceptions.md R215) -/

theorem sequencerEdge_accept {start : Bool} {cmd : Instr} {s : State} (h : accepts start s = true) :
    sequencerEdge start cmd s = acceptRead s := by simp [sequencerEdge, h]

theorem sequencerEdge_illegal {start : Bool} {cmd : Instr} {s : State} (h : isIllegal s.st = true) :
    sequencerEdge start cmd s = { s with st := .idle } := by
  have ha : accepts start s = false := by
    apply accepts_of_not
    revert h; cases s.st <;> simp [isIllegal, acceptsRead, isTerminal]
  simp [sequencerEdge, ha, h]

theorem sequencerEdge_tick {start : Bool} {cmd : Instr} {s : State} (ha : accepts start s = false)
    (hi : isIllegal s.st = false) (ht : s.presc = s.cfg.clkPerUs - 1) :
    sequencerEdge start cmd s = seqTick (ltuStep cmd s.tcnt s.sync2) s := by
  simp [sequencerEdge, ha, hi, isTick, ht]

theorem sequencerEdge_hold {start : Bool} {cmd : Instr} {s : State} (ha : accepts start s = false)
    (hi : isIllegal s.st = false) (ht : s.presc ≠ s.cfg.clkPerUs - 1) :
    sequencerEdge start cmd s = s := by
  simp [sequencerEdge, ha, hi, isTick, ht]

/-! ### The cycle and the step -/

theorem exec_read (rsel : BitVec 2) (s : State) :
    exec (.read rsel) s = clockCycle true rsel (currentCommand s) s := rfl

theorem exec_rdStatus (s : State) : exec .rdStatus s = clockCycle false 0#2 (currentCommand s) s := rfl

theorem exec_rdReading (s : State) : exec .rdReading s = clockCycle false 1#2 (currentCommand s) s := rfl

theorem exec_rdFrame0 (s : State) : exec .rdFrame0 s = clockCycle false 2#2 (currentCommand s) s := rfl

theorem exec_rdFrame1 (s : State) : exec .rdFrame1 s = clockCycle false 3#2 (currentCommand s) s := rfl

/-- The meaning of an LTU command is a cycle with that command. -/
theorem exec_ltu {i : Instr} (h : i.format = .ltu) (s : State) :
    exec i s = clockCycle (portOf s).start (portOf s).rsel i.checked s := by
  cases i <;> simp [Instr.format] at h <;> rfl

/-- The meaning of a host word is a cycle with its two fields. -/
theorem exec_hostFields (start : Bool) (rsel : BitVec 2) (s : State) :
    exec (decodeHost (hostFields start rsel)) s = clockCycle start rsel (currentCommand s) s := by
  rw [decodeHost_fields]
  have h : rsel = 0#2 ∨ rsel = 1#2 ∨ rsel = 2#2 ∨ rsel = 3#2 := by revert rsel; decide
  cases start
  · rcases h with rfl | rfl | rfl | rfl <;> rfl
  · rfl

/-- A step is a cycle with what stands at the ports and the sequencer's own command. -/
theorem step_eq (s : State) :
    step s = clockCycle (portOf s).start (portOf s).rsel (currentCommand s) s :=
  exec_hostFields _ _ s

theorem clockCycle_reset {start : Bool} {rsel : BitVec 2} {cmd : Except DecodeError Instr} {s : State}
    (h : (portOf s).rst = true) : clockCycle start rsel cmd s = .next (resetEdge rsel s) := by
  simp [clockCycle, h]

theorem clockCycle_ok {start : Bool} {rsel : BitVec 2} {cmd : Instr} {s : State}
    (h : (portOf s).rst = false) : clockCycle start rsel (.ok cmd) s = .next (clockEdge start rsel cmd s) := by
  simp [clockCycle, h]

theorem clockCycle_error {start : Bool} {rsel : BitVec 2} {why : DecodeError} {s : State}
    (h : (portOf s).rst = false) :
    clockCycle start rsel (.error why) s = .refused (.reservedLtuWord why) := by
  simp [clockCycle, h]

/-- All that a cycle can do. -/
theorem clockCycle_cases (start : Bool) (rsel : BitVec 2) (cmd : Except DecodeError Instr) (s : State) :
    ((portOf s).rst = true ∧ clockCycle start rsel cmd s = .next (resetEdge rsel s)) ∨
      (∃ c, (portOf s).rst = false ∧ cmd = .ok c ∧ clockCycle start rsel cmd s = .next (clockEdge start rsel c s)) ∨
      (∃ why, (portOf s).rst = false ∧ cmd = .error why ∧
        clockCycle start rsel cmd s = .refused (.reservedLtuWord why)) := by
  cases hr : (portOf s).rst
  · cases cmd with
    | ok c => exact .inr (.inl ⟨c, rfl, rfl, clockCycle_ok hr⟩)
    | error why => exact .inr (.inr ⟨why, rfl, rfl, clockCycle_error hr⟩)
  · exact .inl ⟨rfl, clockCycle_reset hr⟩

/-- All that a step that goes on can do: a reset edge, or a clock edge with the command of the sequencer's state. -/
theorem step_next {s t : State} (h : step s = .next t) :
    ((portOf s).rst = true ∧ t = resetEdge (portOf s).rsel s) ∨
      (∃ cmd, (portOf s).rst = false ∧ currentCommand s = .ok cmd ∧
        t = clockEdge (portOf s).start (portOf s).rsel cmd s) := by
  rw [step_eq] at h
  rcases clockCycle_cases (portOf s).start (portOf s).rsel (currentCommand s) s with
    ⟨hr, hc⟩ | ⟨c, hr, hk, hc⟩ | ⟨w, hr, hk, hc⟩ <;> rw [hc] at h <;> cases h
  · exact .inl ⟨hr, rfl⟩
  · exact .inr ⟨c, hr, hk, rfl⟩

/-- A step never faults: there is no fault. -/
theorem step_no_fault (s : State) (f : Fault) : step s ≠ .fault f := nomatch f

/-! ### The commands that need no parameter -/

theorem currentCommand_release {s : State} (h : isBusy s.st = false ∨ s.st = .check) :
    currentCommand s = .ok .release := by
  have hw : commandWord s.cfg s.bidx s.st = ltuFields 0#2 false 0#16 := by
    cases hs : s.st <;> simp_all [isBusy, commandWord]
  rw [currentCommand, hw, decodeLtu_fields]; simp

end Sys2Proof.Machine
end

