-- ==== Sys2Proof/Laws/PerInstr.lean ====
section
/-! SUPPORT. The family MatchesTable: the word of each instruction against its row of spec/opcode_table.json. -/

namespace Sys2Proof.Laws.MatchesTable

/-- The number an opcode-table word has as bytes, the first byte the least significant. -/
def wordNumber : List Byte → Nat
  | [] => 0
  | b :: rest => b.toNat + 256 * wordNumber rest

/-- The row's mask in spec/opcode_table.json. -/
def rowMask : Instr → Nat
  | .read _ => 0x4
  | .rdStatus => 0x7
  | .rdReading => 0x7
  | .rdFrame0 => 0x7
  | .rdFrame1 => 0x7
  | .release => 0x7FFFF
  | .driveLow _ => 0x70000
  | .driveHigh _ => 0x70000
  | .waitLow _ => 0x70000
  | .waitHigh _ => 0x70000
  | .measureHigh _ => 0x70000

/-- The row's match in spec/opcode_table.json. -/
def rowMatch : Instr → Nat
  | .read _ => 0x4
  | .rdStatus => 0x0
  | .rdReading => 0x1
  | .rdFrame0 => 0x2
  | .rdFrame1 => 0x3
  | .release => 0x00000
  | .driveLow _ => 0x20000
  | .driveHigh _ => 0x30000
  | .waitLow _ => 0x40000
  | .waitHigh _ => 0x50000
  | .measureHigh _ => 0x70000

/-- A well-formed instruction's encoded word has the fixed bits of its row of the opcode table. -/
def Statement (i : Instr) : Prop := i.wf = true → wordNumber (encode i) &&& rowMask i = rowMatch i

/-- The number of an LTU word's bytes is the word. -/
theorem wordNumber_ltuBytes (w : LtuWord) : wordNumber (ltuBytes w) = w.toNat := by
  have h : (cat 8 0#5 (w.extractLsb' 16 3)).toNat = w.toNat / 65536 % 8 := by
    simp only [cat, BitVec.toNat_cast, BitVec.toNat_append, BitVec.extractLsb'_toNat, Nat.shiftRight_eq_div_pow]
    rw [← Nat.shiftLeft_add_eq_or_of_lt (Nat.mod_lt _ (by decide))]
    simp
  have hw := w.isLt
  simp only [ltuBytes, wordNumber, h, BitVec.extractLsb'_toNat, Nat.shiftRight_eq_div_pow]
  omega

/-- The three fixed bits of a primitive stand in bits 18 to 16 of its word. -/
theorem ltuFields_top (op : BitVec 2) (lvl : Bool) (arg : Ticks) :
    wordNumber (ltuBytes (ltuFields op lvl arg)) &&& 0x70000 = (op.toNat * 2 + lvl.toNat) * 65536 := by
  rw [wordNumber_ltuBytes]
  have h1 : (ltuFields op lvl arg).toNat = (op.toNat * 2 + lvl.toNat) * 2 ^ 16 + arg.toNat := by
    have ha := arg.isLt
    simp only [ltuFields, cat, BitVec.toNat_cast, BitVec.toNat_append]
    rw [← Nat.shiftLeft_add_eq_or_of_lt ha, ← Nat.shiftLeft_add_eq_or_of_lt (BitVec.ofBool lvl).isLt]
    simp [Nat.shiftLeft_eq]
  have h2 : op.toNat * 2 + lvl.toNat < 8 := by
    have := op.isLt; have := lvl.toNat_lt; omega
  rw [h1]
  apply Nat.eq_of_testBit_eq
  intro i
  rw [Nat.testBit_and]
  generalize op.toNat * 2 + lvl.toNat = k at h2
  have e : k * 65536 = k * 2 ^ 16 + 0 := by omega
  rw [e, Nat.mul_comm, Nat.testBit_two_pow_mul_add _ arg.isLt, Nat.testBit_two_pow_mul_add _ (by decide)]
  have e7 : (0x70000 : Nat) = 2 ^ 16 * 7 + 0 := by decide
  rw [e7, Nat.testBit_two_pow_mul_add _ (by decide)]
  split
  · simp
  · generalize i - 16 = j
    have h3 : k &&& 7 = k := by
      have : ∀ k < 8, k &&& 7 = k := by decide
      exact this k h2
    rw [← Nat.testBit_and, h3]

theorem read (rsel : BitVec 2) : Statement (.read rsel) := by
  intro _; revert rsel; decide

theorem rdStatus : Statement .rdStatus := by intro _; decide

theorem rdReading : Statement .rdReading := by intro _; decide

theorem rdFrame0 : Statement .rdFrame0 := by intro _; decide

theorem rdFrame1 : Statement .rdFrame1 := by intro _; decide

theorem release : Statement .release := by intro _; decide

theorem driveLow (d : Ticks) : Statement (.driveLow d) := fun _ => ltuFields_top 1#2 false d

theorem driveHigh (d : Ticks) : Statement (.driveHigh d) := fun _ => ltuFields_top 1#2 true d

theorem waitLow (t : Ticks) : Statement (.waitLow t) := fun _ => ltuFields_top 2#2 false t

theorem waitHigh (t : Ticks) : Statement (.waitHigh t) := fun _ => ltuFields_top 2#2 true t

theorem measureHigh (c : Ticks) : Statement (.measureHigh c) := fun _ => ltuFields_top 3#2 true c

end Sys2Proof.Laws.MatchesTable
end

