-- ==== Sys2Proof/Laws/Step.lean ====
section
/-! SUPPORT. What an edge and a step do, said in the terms of the claims (Sys2Proof/Safety.lean). -/

namespace Sys2Proof.Machine

/-- The legal ranges as inequalities (00_scope.md R6 to R14). -/
theorem Params.legal_iff (p : Params) :
    p.legal = true ↔
      1 ≤ p.clkPerUs ∧ 18000 ≤ p.tStartLow ∧ p.tStartLow ≤ 65535 ∧ 20 ≤ p.tRelHigh ∧ p.tRelHigh ≤ 40 ∧
        p.tAckTo ≤ 65534 ∧ p.tBit0LowTo ≤ 65534 ∧ p.tBitTo ≤ 65534 ∧ 2 ≤ p.tCap ∧ p.tCap ≤ 65535 ∧
        p.tThresh ≤ 65535 := by
  simp [Params.legal]; omega

/-- A counter below its range's end counts without wrapping (10_state.md R36). -/
theorem toNat_succ {x : Ticks} (h : x.toNat < 65535) : (x + 1#16).toNat = x.toNat + 1 := by
  rw [BitVec.toNat_add]; exact Nat.mod_eq_of_lt (by simp; omega)

theorem SameSequencer.refl (s : State) : SameSequencer s s := ⟨rfl, rfl, rfl, rfl, rfl, rfl, rfl⟩

/-- Every clock edge leaves the frame of `EdgeFrame`. -/
theorem clockEdge_frame (start : Bool) (rsel : BitVec 2) (cmd : Instr) (s : State) :
    EdgeFrame cmd (accepts start s) s (clockEdge start rsel cmd s) := by
  refine ⟨by simp [sequencerEdge_frame], ?_, rfl, rfl, rfl, rfl⟩
  simp only [clockEdge_presc, prescNext, isTick]
  by_cases hi : isIllegal s.st <;> by_cases ha : accepts start s <;> by_cases ht : s.presc = s.cfg.clkPerUs - 1 <;>
    simp [hi, ha, ht]

/-- With a legal state code the prescaler and the synchroniser go on (10_state.md R37, R38). -/
theorem clockEdge_goes_on {start : Bool} {rsel : BitVec 2} {cmd : Instr} {s : State} (h : isIllegal s.st = false) :
    (clockEdge start rsel cmd s).presc = prescNext (accepts start s) s ∧
      (clockEdge start rsel cmd s).sync1 = lineLevel cmd (portOf s).line ∧
      (clockEdge start rsel cmd s).sync2 = s.sync1 := by
  simp [h]

/-- The edge that recovers an illegal code holds every register of the spec but `st` (30_encoding.md R81). -/
theorem clockEdge_illegal {start : Bool} {rsel : BitVec 2} {cmd : Instr} {s : State} (h : isIllegal s.st = true) :
    clockEdge start rsel cmd s =
      { s with st := .idle, rdata := regView s rsel, inputs := s.inputs.tail, cycle := s.cycle + 1 } := by
  simp [clockEdge, sequencerEdge_illegal h, h]

/-- No tick leads to an illegal state code (30_encoding.md R81). -/
theorem seqTick_legal {r : LtuResult} {s : State} (h : isIllegal s.st = false) : isIllegal (seqTick r s).st = false := by
  unfold seqTick
  cases hs : s.st <;> simp only
  case check => simp only [phaseCheck]; split <;> rfl
  case bitMeas =>
    have hm : ∀ b e, isIllegal (afterMeasure b e) = false := by
      intro b e; unfold afterMeasure; cases e <;> split <;> rfl
    cases r
    case meas n e => exact hm s.bidx e
    all_goals exact (congrArg isIllegal hs).trans rfl
  case illegal => simp [hs, isIllegal] at h
  all_goals
    cases r <;> simp [phaseStartLow, phaseStartHigh, phaseAwaitAck, phaseAckLow, phaseBitLow, phaseBitHigh, hs, isIllegal]

/-- No step leads to an illegal state code, from whatever state (30_encoding.md R81). -/
theorem step_legal {s t : State} (h : step s = .next t) : isIllegal t.st = false := by
  rcases step_next h with ⟨_, rfl⟩ | ⟨c, _, _, rfl⟩
  · rfl
  · rw [clockEdge_st, sequencerEdge]
    split
    · rfl
    · split
      · rfl
      · rename_i hi
        have hi : isIllegal s.st = false := by simpa using hi
        split
        · exact seqTick_legal hi
        · exact hi

/-- The sequencer's registers after an edge are those the sequencer gives. -/
theorem clockEdge_same {start : Bool} {rsel : BitVec 2} {cmd : Instr} {s u : State}
    (h : sequencerEdge start cmd s = u) : SameSequencer (clockEdge start rsel cmd s) u := by
  subst h; exact ⟨rfl, rfl, rfl, rfl, rfl, rfl, rfl⟩

/-- No tick changes a register outside the busy states (41_decoder_sequence.md R149). -/
theorem seqTick_quiet {r : LtuResult} {s : State} (h : isBusy s.st = false) : seqTick r s = s := by
  unfold seqTick; cases hs : s.st <;> simp_all [isBusy]

/-- All that a step without reset does to the sequencer, in the order of 60_exceptions.md R215. -/
theorem step_sequencer {s t : State} (h : step s = .next t) (hr : (portOf s).rst = false) :
    (accepts (portOf s).start s = true ∧ SameSequencer t (acceptRead s)) ∨
      (accepts (portOf s).start s = false ∧ isIllegal s.st = true ∧ SameSequencer t { s with st := .idle }) ∨
      (accepts (portOf s).start s = false ∧ isIllegal s.st = false ∧ s.presc = s.cfg.clkPerUs - 1 ∧
        SameSequencer t (tickStep s.sync2 s)) ∨
      (accepts (portOf s).start s = false ∧ isIllegal s.st = false ∧ s.presc ≠ s.cfg.clkPerUs - 1 ∧
        SameSequencer t s) := by
  rcases step_next h with ⟨h1, _⟩ | ⟨c, _, hc, rfl⟩
  · simp [h1] at hr
  · cases ha : accepts (portOf s).start s
    · cases hi : isIllegal s.st
      · by_cases ht : s.presc = s.cfg.clkPerUs - 1
        · refine .inr (.inr (.inl ⟨rfl, rfl, ht, clockEdge_same ?_⟩))
          rw [sequencerEdge_tick ha hi ht, tickStep, hc]
        · exact .inr (.inr (.inr ⟨rfl, rfl, ht, clockEdge_same (sequencerEdge_hold ha hi ht)⟩))
      · exact .inr (.inl ⟨rfl, rfl, clockEdge_same (sequencerEdge_illegal hi)⟩)
    · exact .inl ⟨rfl, clockEdge_same (sequencerEdge_accept ha)⟩

theorem tickRun_append (a b : List Level) (s : State) : tickRun (a ++ b) s = tickRun b (tickRun a s) := by
  induction a generalizing s with
  | nil => rfl
  | cons x xs ih => simp [tickRun, ih]

end Sys2Proof.Machine
end

