-- ==== Sys2Proof/Tests/Slice0.lean ====
section
/-! SUPPORT. Tests. Expected values come from spec/95_test_vectors.md (its vector is named) or, where no vector is named,
from the rule in the comment. Then a witness for every statement that has hypotheses. -/

namespace Sys2Proof.Tests

open Sys2Proof Sys2Proof.Machine

/-! ### Small states -/

/-- The port values of one cycle without reset: `start`, `rsel` 0, and the level of a released line. -/
def port (start : Bool) (level : Level) : CycleInput :=
  { rst := false, start := start, rsel := 0#2, line := .environment level }

/-- The port values of a cycle with `rst` = 1. -/
def portRst (start : Bool) : CycleInput := { port start true with rst := true }

/-- The spec's default machine with CLK_PER_US = 1 in sequencer state `st`: every cycle is a tick. -/
def inSt (st : SeqState) : State := { State.reset with st := st, inputs := [port false true, port false true] }

/-- The same with CLK_PER_US = 2 and the prescaler at 0: the cycle is no tick. -/
def noTick (st : SeqState) : State := { inSt st with cfg := { Params.default with clkPerUs := 2 } }

/-- The state in which Scenario A ends (SA-1). -/
def afterA : State :=
  { inSt .done with
    bidx := 40#6, shreg := 0x370018004F#40, resFrame := 0x370018004F#40, outcome := .success }

/-- The state in which Scenario C ends (SC-1). -/
def afterC : State := { inSt .failed with outcome := .handshakeTimeout }

/-- What a field of the next state is, if there is a next state. -/
def after {α : Type} (o : Host.Outcome State Fault Refusal) (f : State → α) : Option α :=
  match o with
  | .next t => some (f t)
  | .fault _ => none
  | .refused _ => none

/-! ### Well-formedness: the checks refuse -/

/-- 30_encoding.md R90: DRIVE with `arg` = 0, MEASURE_HIGH with `arg` < 2. -/
theorem test_wf_refuses :
    (Instr.driveLow 0#16).wf = false ∧ (Instr.driveHigh 0#16).wf = false ∧
    (Instr.measureHigh 0#16).wf = false ∧ (Instr.measureHigh 1#16).wf = false := by decide

/-- 00_scope.md R8 to R14: one parameter just outside its range at a time. -/
theorem test_params_refuses :
    (Params.legal { Params.default with clkPerUs := 0 }) = false ∧
    (Params.legal { Params.default with tStartLow := 17999 }) = false ∧
    (Params.legal { Params.default with tStartLow := 65536 }) = false ∧
    (Params.legal { Params.default with tRelHigh := 19 }) = false ∧
    (Params.legal { Params.default with tRelHigh := 41 }) = false ∧
    (Params.legal { Params.default with tAckTo := 65535 }) = false ∧
    (Params.legal { Params.default with tBit0LowTo := 65535 }) = false ∧
    (Params.legal { Params.default with tBitTo := 65535 }) = false ∧
    (Params.legal { Params.default with tCap := 1 }) = false ∧
    (Params.legal { Params.default with tCap := 65536 }) = false ∧
    (Params.legal { Params.default with tThresh := 65536 }) = false ∧
    Params.default.legal = true := by decide

/-! ### Decoding, bit by bit (30_encoding.md R86, R87, R91; section 2.8 of the vectors) -/

/-- The host words, `start` in bit 2 and `rsel` in bits 1 and 0. -/
theorem test_decode_host :
    decodeTableWord 8 0b100 = some (.read 0#2) ∧ decodeTableWord 8 0b111 = some (.read 3#2) ∧
    decodeTableWord 8 0b000 = some .rdStatus ∧ decodeTableWord 8 0b001 = some .rdReading ∧
    decodeTableWord 8 0b010 = some .rdFrame0 ∧ decodeTableWord 8 0b011 = some .rdFrame1 ∧
    decodeTableWord 8 0b1000 = none := by decide

/-- EN-8 -/
theorem test_decode_release : decodeTableWord 24 0b0000000000000000000 = some .release := by decide

/-- EN-1: op 01, lvl 0, arg 0100111000100000 -/
theorem test_decode_driveLow : decodeTableWord 24 0b0100100111000100000 = some (.driveLow 20000#16) := by decide

/-- EN-2: op 01, lvl 1, arg 0000000000011110 -/
theorem test_decode_driveHigh : decodeTableWord 24 0b0110000000000011110 = some (.driveHigh 30#16) := by decide

/-- EN-3 and EN-9: op 10, lvl 0 -/
theorem test_decode_waitLow :
    decodeTableWord 24 0b1000000000001100100 = some (.waitLow 100#16) ∧
    decodeTableWord 24 0b1000000000000000000 = some (.waitLow 0#16) := by decide

/-- EN-4 and EN-6: op 10, lvl 1 -/
theorem test_decode_waitHigh :
    decodeTableWord 24 0b1010000000001100100 = some (.waitHigh 100#16) ∧
    decodeTableWord 24 0b1010000000001000110 = some (.waitHigh 70#16) := by decide

/-- EN-7: op 11, lvl 1, arg 0000000001111000 -/
theorem test_decode_measureHigh : decodeTableWord 24 0b1110000000001111000 = some (.measureHigh 120#16) := by decide

/-- EN-10 to EN-14, each refused by its own name; a stray bit above bit 18 and a missing byte too. -/
theorem test_decode_refuses :
    decodeLtu 0x10000#19 = .error .reservedRelease ∧ decodeLtu 0x00005#19 = .error .reservedRelease ∧
    decodeLtu 0x60078#19 = .error .reservedMeasureLow ∧ decodeLtu 0x20000#19 = .error .reservedDrive ∧
    decodeLtu 0x70001#19 = .error .reservedCeiling ∧
    decode .ltu [0x78#8, 0x00#8, 0x0F#8] = .error .strayBits ∧ decode .ltu [0x78#8, 0x00#8] = .error .truncated ∧
    decode .host [] = .error .truncated := by decide

/-! ### One instruction, one cycle -/

/-- HI-2: a READ in IDLE. -/
theorem test_read_accepted :
    after (exec (.read 0#2) (inSt .idle)) (fun t =>
      (busyFlag t, doneFlag t, statusReg t, lineOe t, lineOut t, t.rdata)) =
      some (true, false, 1#32, true, false, 0#32) := by decide

/-- HI-7: a READ after SA-1 still shows the old reading in its own cycle, and clears the result. -/
theorem test_read_overwrites :
    after (exec (.read 1#2) afterA) (fun t => (t.rdata, statusReg t, readingReg t)) =
      some (0x00001837#32, 1#32, 0#32) := by decide

/-- HI-4, HI-5 (Scenario A's STATUS, and Scenario C's of SC-1) -/
theorem test_rdStatus :
    after (exec .rdStatus afterA) (·.rdata) = some 0x00000006#32 ∧
    after (exec .rdStatus afterC) (·.rdata) = some 0x0000000A#32 := by decide

/-- HI-4 -/
theorem test_rdReading : after (exec .rdReading afterA) (·.rdata) = some 0x00001837#32 := by decide

/-- HI-4 -/
theorem test_rdFrame0 : after (exec .rdFrame0 afterA) (·.rdata) = some 0x00180037#32 := by decide

/-- HI-4 -/
theorem test_rdFrame1 : after (exec .rdFrame1 afterA) (·.rdata) = some 0x0000004F#32 := by decide

/-- CK-9: fractional bytes set FRAC_NZ. -/
theorem test_rdStatus_frac :
    after (exec .rdStatus { afterA with resFrame := 0x3705180054#40 }) (·.rdata) = some 0x00000026#32 ∧
    after (exec .rdFrame0 { afterA with resFrame := 0x3705180054#40 }) (·.rdata) = some 0x00180537#32 := by decide

/-- LT-R1 and the example of R113: the line is released and the counter holds. -/
theorem test_release :
    ltuStep .release 7#16 true = .run 7#16 ∧
    after (exec .release { afterA with tcnt := 7#16 }) (fun t => (seqCode t.st, t.tcnt, lineOe t)) =
      some (9#4, 7#16, false) := by decide

/-- LT-D1, LT-D2 -/
theorem test_driveLow :
    after (exec (.driveLow 20000#16) (inSt .startLow)) (fun t => (seqCode t.st, t.tcnt)) = some (1#4, 1#16) ∧
    after (exec (.driveLow 20000#16) { inSt .startLow with tcnt := 19999#16 })
      (fun t => (seqCode t.st, t.tcnt)) = some (2#4, 0#16) := by decide

/-- LT-D3, LT-D4: the sample is not read. -/
theorem test_driveHigh :
    after (exec (.driveHigh 30#16) { inSt .startHigh with tcnt := 29#16, sync2 := false })
      (fun t => (seqCode t.st, t.tcnt)) = some (3#4, 0#16) ∧
    ltuStep (.driveHigh 1#16) 0#16 true = .ok := by decide

/-- LT-W2, LT-W3 in AWAIT_ACK, and EX-1. -/
theorem test_waitLow :
    after (exec (.waitLow 100#16) { inSt .awaitAck with tcnt := 99#16 })
      (fun t => (seqCode t.st, t.tcnt)) = some (3#4, 100#16) ∧
    after (exec (.waitLow 100#16) { inSt .awaitAck with tcnt := 100#16, sync2 := false })
      (fun t => (seqCode t.st, t.tcnt)) = some (4#4, 0#16) := by decide

/-- EX-1 and LT-W5 -/
theorem test_waitLow_timeout :
    after (exec (.waitLow 100#16) { inSt .awaitAck with tcnt := 100#16 })
      (fun t => (seqCode t.st, outcomeCode t.outcome, t.tcnt, t.shreg, t.bidx)) =
      some (10#4, 2#3, 0#16, 0#40, 0#6) ∧
    ltuStep (.waitLow 0#16) 0#16 true = .timeout := by decide

/-- LT-W6, LT-W7, LT-W8; in BIT_HIGH a success starts the counter at 1 (R146). -/
theorem test_waitHigh :
    after (exec (.waitHigh 70#16) { inSt .bitHigh with tcnt := 50#16 })
      (fun t => (seqCode t.st, t.tcnt)) = some (7#4, 1#16) ∧
    ltuStep (.waitHigh 70#16) 70#16 false = .timeout ∧ ltuStep (.waitHigh 70#16) 69#16 false = .run 70#16 := by decide

/-- EX-2: a timeout in BIT_HIGH of bit 18 keeps `bidx` and drops the bits. -/
theorem test_waitHigh_timeout :
    after (exec (.waitHigh 70#16)
        { inSt .bitHigh with tcnt := 70#16, bidx := 18#6, shreg := 0x2A5A5#40, sync2 := false })
      (fun t => (seqCode t.st, outcomeCode t.outcome, t.shreg, t.bidx)) = some (10#4, 3#3, 0#40, 18#6) := by decide

/-- LT-M2, LT-M3: 40 decodes to 0 and 41 to 1, at the low end of the shift register. -/
theorem test_measureHigh :
    after (exec (.measureHigh 120#16) { inSt .bitMeas with tcnt := 40#16, bidx := 3#6, shreg := 5#40, sync2 := false })
      (fun t => (seqCode t.st, t.shreg, t.bidx, t.tcnt)) = some (6#4, 10#40, 4#6, 0#16) ∧
    after (exec (.measureHigh 120#16) { inSt .bitMeas with tcnt := 41#16, bidx := 3#6, shreg := 5#40, sync2 := false })
      (fun t => (seqCode t.st, t.shreg, t.bidx, t.tcnt)) = some (6#4, 11#40, 4#6, 0#16) := by decide

/-- LT-M4, LT-M6, EX-7: the ceiling leads to BIT_LOW, for bit 39 to CHECK; low beats the ceiling. -/
theorem test_measureHigh_ceiling :
    after (exec (.measureHigh 120#16) { inSt .bitMeas with tcnt := 119#16 })
      (fun t => (seqCode t.st, t.shreg, outcomeCode t.outcome)) = some (5#4, 1#40, 0#3) ∧
    after (exec (.measureHigh 120#16) { inSt .bitMeas with tcnt := 119#16, bidx := 39#6 })
      (fun t => (seqCode t.st, t.bidx)) = some (8#4, 40#6) ∧
    ltuStep (.measureHigh 120#16) 119#16 false = .meas 119#16 true := by decide

/-! ### The checksum, failures, reset -/

/-- CK-1 to CK-8 and 42_checksum_frame.md R179 -/
theorem test_checksum :
    checksumOk (frameOf 55 0 24 0 79) = true ∧ checksumOk (frameOf 55 0 24 0 80) = false ∧
    checksumOk (frameOf 255 255 255 255 255) = false ∧ checksumOk (frameOf 255 255 255 255 252) = true ∧
    checksumOk (frameOf 200 100 0 0 44) = true ∧ checksumOk (frameOf 55 0 24 0 78) = false ∧
    checksumOk (frameOf 63 0 16 0 79) = true := by decide

/-- CK-1 and EX-3: what a tick of CHECK does. -/
theorem test_check :
    after (step { inSt .check with bidx := 40#6, shreg := 0x370018004F#40 })
      (fun t => (seqCode t.st, outcomeCode t.outcome, t.resFrame)) = some (9#4, 1#3, 0x370018004F#40) ∧
    after (step { inSt .check with bidx := 40#6, shreg := 0x3700180050#40 })
      (fun t => (seqCode t.st, outcomeCode t.outcome, t.resFrame, t.shreg, t.bidx)) =
      some (10#4, 4#3, 0#40, 0#40, 40#6) := by decide

/-- EX-4, EX-5: reset wins over an acceptance and over a match. -/
theorem test_reset_wins :
    after (step { afterA with inputs := [portRst true] }) (fun t => (seqCode t.st, statusReg t)) =
      some (0#4, 0#32) ∧
    after (step { inSt .check with shreg := 0x370018004F#40, inputs := [portRst false] })
      (fun t => (seqCode t.st, outcomeCode t.outcome, t.resFrame)) = some (0#4, 0#3, 0#40) := by decide

/-- EX-6: a READ in state 12 is not accepted; the next edge recovers. -/
theorem test_illegal_state :
    busyFlag (inSt (.illegal 1)) = false ∧ lineOe (inSt (.illegal 1)) = false ∧ seqCode (.illegal 1) = 12#4 ∧
    after (exec (.read 0#2) (inSt (.illegal 1))) (fun t => seqCode t.st) = some 0#4 := by decide

/-- R81: the edge that recovers holds the prescaler and the synchroniser; R81, R83, I3, I5, I6: what is not taken in. -/
theorem test_unreachable_codes :
    after (step { noTick (.illegal 1) with presc := 1, sync1 := false }) (fun t => (t.presc, t.sync1, t.sync2)) =
      some (1, false, true) ∧
    (inSt (.illegal 1)).takeIn = .error .illegalStateCode ∧
    { inSt .idle with outcome := .reserved 2 }.takeIn = .error .reservedOutcomeCode ∧
    { inSt .idle with cfg := { Params.default with tCap := 1 } }.takeIn = .error .illegalParameters ∧
    afterA.takeIn = .ok afterA := by decide

/-- R191: a READ in START_LOW changes nothing (the precondition of R191 is broken, the block ignores it). -/
theorem test_read_while_busy :
    after (exec (.read 0#2) (inSt .startLow)) (fun t => (seqCode t.st, t.tcnt)) = some (1#4, 1#16) ∧
    hostKeepsContract { inSt .startLow with inputs := [port true true] } = false := by decide

/-- R201: what the host makes of the registers after Scenarios A and C. -/
theorem test_host_outcome :
    hostOutcome (statusReg afterA) (readingReg afterA) = some (.success { humidity := 55, temperature := 24 }) ∧
    hostOutcome (statusReg afterC) (readingReg afterC) = some (.failure .handshakeTimeout) := by decide

/-- R97, R98: the written form, and the pseudo-instructions. -/
theorem test_assembler :
    asmText (.waitLow 100#16) = "WAIT_LOW 100" ∧ expandPseudo (.waitForLevel true 70#16) = .waitHigh 70#16 ∧
    lineInstrs (.nop 2) = [.rdStatus, .rdStatus] := by decide

/-- R37, R38: the prescaler counts and wraps, the synchroniser delays by two cycles (driven low in START_LOW). -/
theorem test_prescaler_synchroniser :
    after (step (noTick .startLow)) (fun t => (t.presc, t.tcnt, t.sync1, t.sync2)) = some (1, 0#16, false, true) ∧
    after (step { noTick .startLow with presc := 1, sync1 := false }) (fun t => (t.presc, t.tcnt, t.sync2)) =
      some (0, 1#16, false) := by decide

/-! ### Witnesses -/

theorem inv_startLow : Inv (inSt .startLow) := by
  constructor <;> simp [inSt, State.reset, State.afterReset, counterOk, outcomeOk, inHandshake, inCapture] <;> decide

theorem inv_noTick : Inv (noTick .startLow) := by
  constructor <;>
    simp [noTick, inSt, State.reset, State.afterReset, counterOk, outcomeOk, inHandshake, inCapture] <;> decide

theorem inv_check : Inv { inSt .check with bidx := 40#6 } := by
  constructor <;> simp [inSt, State.reset, State.afterReset, counterOk, outcomeOk, inHandshake, inCapture] <;> decide

theorem inv_afterA : Inv afterA := by
  constructor <;> simp [afterA, inSt, State.reset, State.afterReset, counterOk, outcomeOk, inHandshake, inCapture] <;>
    decide

theorem inv_afterC : Inv afterC := by
  constructor <;>
    first
      | exact ⟨.handshakeTimeout, rfl⟩
      | (simp [afterC, inSt, State.reset, State.afterReset, counterOk, inHandshake, inCapture] <;> decide)

theorem inv_idle : Inv (inSt .idle) := by
  constructor <;> simp [inSt, State.reset, State.afterReset, counterOk, outcomeOk, inCapture] <;> decide

/-- The invariant does not speak of the ports. -/
theorem inv_inputs {s : State} (h : Inv s) (inputs : List CycleInput) : Inv { s with inputs := inputs } :=
  ⟨h.legal, h.presc, h.counter, h.outcome, h.bidxLe, h.start, h.capture, h.full, h.result, h.noResult⟩

theorem witness_ResetBeatsEverything : (portOf { afterA with inputs := [portRst true] }).rst = true := by decide

theorem witness_ReadIsAcceptedWhenNotBusy :
    ((portOf (inSt .idle)).rst = false ∧ (inSt .idle).st = .idle ∧ (inSt .idle).cfg.legal = true) ∧
    ((portOf afterA).rst = false ∧ afterA.st = .done) ∧ ((portOf afterC).rst = false ∧ afterC.st = .failed) ∧
    (∃ t, exec (.read 0#2) { afterA with inputs := [portRst true] } = .next t ∧
      (portOf { afterA with inputs := [portRst true] }).rst = true) ∧
    (∃ t, exec (.read 0#2) (inSt (.illegal 0)) = .next t ∧ isIllegal (inSt (.illegal 0)).st = true) := by
  refine ⟨by decide, by decide, by decide, ⟨_, rfl, rfl⟩, ⟨_, rfl, rfl⟩⟩

theorem witness_ReadIsIgnoredOtherwise :
    acceptsRead (inSt .startLow).st = false ∧ acceptsRead (inSt .check).st = false ∧
    acceptsRead (inSt (.illegal 4)).st = false := by decide

theorem witness_RdStatusShowsTheFlags :
    ((portOf (inSt .startLow)).rst = false ∧ currentCommand (inSt .startLow) = .ok (.driveLow 20000#16) ∧
      Inv (inSt .startLow) ∧ isBusy (inSt .startLow).st = true) ∧
    ((portOf (inSt .idle)).rst = false ∧ currentCommand (inSt .idle) = .ok .release ∧ (inSt .idle).st = .idle ∧
      (inSt .idle).outcome = .none ∧ (inSt .idle).resFrame = 0#40) :=
  ⟨⟨rfl, rfl, inv_startLow, rfl⟩, ⟨rfl, rfl, rfl, rfl, rfl⟩⟩

theorem witness_RdReading_RdFrame0_RdFrame1 :
    ((portOf afterA).rst = false ∧ currentCommand afterA = .ok .release) ∧
    ((portOf afterC).rst = false ∧ currentCommand afterC = .ok .release ∧ Inv afterC ∧ afterC.outcome ≠ .success) :=
  ⟨⟨rfl, rfl⟩, rfl, rfl, inv_afterC, by decide⟩

theorem witness_BusyShowsNothingElse :
    (Inv (inSt .startLow) ∧ isBusy (inSt .startLow).st = true) ∧
    (Inv { inSt .check with bidx := 40#6 } ∧ isBusy { inSt .check with bidx := 40#6 }.st = true) :=
  ⟨⟨inv_startLow, rfl⟩, inv_check, rfl⟩

theorem witness_HostReadsTheOutcome :
    (Inv afterA ∧ afterA.st = .done) ∧
    (Inv afterC ∧ afterC.st = .failed ∧ afterC.outcome = failureTag .handshakeTimeout) ∧
    (Inv (inSt .startLow) ∧ doneFlag (inSt .startLow) = false) :=
  ⟨⟨inv_afterA, rfl⟩, ⟨inv_afterC, rfl, rfl⟩, inv_startLow, rfl⟩

/-- With the default parameters: 30704 polls for each of the two loops, and the port values of all the cycles they can take. -/
theorem witness_HostReadReportsTheTransaction :
    Inv { inSt .idle with inputs := List.replicate 61411 (port false true) } ∧
    worstCase Params.default * Params.default.clkPerUs + 1 ≤ 30704 ∧
    2 * 30704 + 3 ≤ (List.replicate 61411 (port false true)).length ∧
    (∀ p ∈ List.replicate 61411 (port false true), p.rst = false) := by
  refine ⟨inv_inputs inv_idle _, by decide, by rw [List.length_replicate], fun p hp => ?_⟩
  rw [List.eq_of_mem_replicate hp]; rfl

theorem witness_IllegalStateRecoversToIdle :
    ((inSt (.illegal 0)).st = .illegal 0 ∧ (portOf (inSt (.illegal 0))).rst = false ∧
      (inSt (.illegal 0)).cfg.legal = true) ∧
    ((inSt (.illegal 4)).st = .illegal 4 ∧ (portOf (inSt (.illegal 4))).rst = false) ∧
    ∃ t, step (inSt (.illegal 4)) = .next t :=
  ⟨by decide, by decide, _, rfl⟩

theorem witness_AdmissionRefusesUnreachableCodes :
    (afterC.cfg.legal = true ∧ Inv afterC) ∧
    ({ inSt .idle with outcome := .reserved 0 }.cfg.legal = true ∧
      (∀ k, { inSt .idle with outcome := .reserved 0 }.st ≠ .illegal k) ∧
      { inSt .idle with outcome := .reserved 0 }.outcome = .reserved 0) ∧
    { inSt .idle with cfg := { Params.default with clkPerUs := 0 } }.cfg.legal = false ∧
    ∃ t, step { inSt .idle with outcome := .reserved 2 } = .next t ∧ t.outcome = .reserved 2 :=
  ⟨⟨by decide, inv_afterC⟩, by decide, by decide, _, rfl, rfl⟩

theorem witness_ReleaseHolds :
    ((portOf afterA).rst = false ∧ accepts (portOf afterA).start afterA = false ∧ isIllegal afterA.st = false ∧
      ¬ (afterA.st = .check ∧ afterA.presc = afterA.cfg.clkPerUs - 1)) ∧
    ((portOf (noTick .check)).rst = false ∧ accepts (portOf (noTick .check)).start (noTick .check) = false ∧
      isIllegal (noTick .check).st = false ∧
      ¬ ((noTick .check).st = .check ∧ (noTick .check).presc = (noTick .check).cfg.clkPerUs - 1)) := by decide

/-- The tick clause with both ends of the counter, and the two ways into the other clause. -/
theorem witness_DriveLowTimesTheStartPulse :
    ((portOf (inSt .startLow)).rst = false ∧ (1#16 : Ticks) ≠ 0#16 ∧ (65535#16 : Ticks) ≠ 0#16 ∧
      (inSt .startLow).st = .startLow ∧ (inSt .startLow).presc = (inSt .startLow).cfg.clkPerUs - 1) ∧
    (isIllegal (noTick .startLow).st = false ∧ accepts (portOf (noTick .startLow)).start (noTick .startLow) = false ∧
      (noTick .startLow).presc ≠ (noTick .startLow).cfg.clkPerUs - 1) ∧
    (isIllegal afterA.st = false ∧ accepts (portOf afterA).start afterA = false ∧ isBusy afterA.st = false) := by decide

theorem witness_DriveHighTimesTheReleasePulse :
    ((portOf (inSt .startHigh)).rst = false ∧ (1#16 : Ticks) ≠ 0#16 ∧ (inSt .startHigh).st = .startHigh ∧
      (inSt .startHigh).presc = (inSt .startHigh).cfg.clkPerUs - 1) ∧
    (isIllegal (noTick .startHigh).st = false ∧
      accepts (portOf (noTick .startHigh)).start (noTick .startHigh) = false ∧
      (noTick .startHigh).presc ≠ (noTick .startHigh).cfg.clkPerUs - 1) := by decide

theorem witness_WaitLow_WaitHigh :
    ((portOf (inSt .awaitAck)).rst = false ∧ (inSt .awaitAck).presc = (inSt .awaitAck).cfg.clkPerUs - 1) ∧
    ((portOf (inSt .bitLow)).rst = false ∧ (inSt .bitLow).presc = (inSt .bitLow).cfg.clkPerUs - 1) ∧
    ((portOf (inSt .ackLow)).rst = false ∧ (inSt .ackLow).presc = (inSt .ackLow).cfg.clkPerUs - 1) ∧
    ((portOf (inSt .bitHigh)).rst = false ∧ (inSt .bitHigh).presc = (inSt .bitHigh).cfg.clkPerUs - 1) ∧
    (isIllegal (noTick .bitLow).st = false ∧ accepts (portOf (noTick .bitLow)).start (noTick .bitLow) = false ∧
      (noTick .bitLow).presc ≠ (noTick .bitLow).cfg.clkPerUs - 1) := by decide

theorem witness_MeasureHighTakesTheBit :
    ((portOf (inSt .bitMeas)).rst = false ∧ 2 ≤ (2#16 : Ticks).toNat ∧ (inSt .bitMeas).st = .bitMeas ∧
      (inSt .bitMeas).presc = (inSt .bitMeas).cfg.clkPerUs - 1) ∧
    (isIllegal (noTick .bitMeas).st = false ∧ accepts (portOf (noTick .bitMeas)).start (noTick .bitMeas) = false ∧
      (noTick .bitMeas).presc ≠ (noTick .bitMeas).cfg.clkPerUs - 1) := by decide

/-- A command that goes on, one that completes, and a cycle that is no tick. -/
theorem witness_LtuCommandFrame :
    (∃ t, (Instr.driveLow 20000#16).format = .ltu ∧ exec (.driveLow 20000#16) (inSt .startLow) = .next t ∧
      (portOf (inSt .startLow)).rst = false ∧ accepts (portOf (inSt .startLow)).start (inSt .startLow) = false ∧
      isIllegal (inSt .startLow).st = false ∧ (inSt .startLow).st ≠ .bitMeas ∧ t.st ≠ .failed ∧
      t.st = (inSt .startLow).st ∧ (inSt .startLow).st ≠ .check) ∧
    (∃ t, (Instr.waitHigh 70#16).format = .ltu ∧ exec (.waitHigh 70#16) (inSt .bitHigh) = .next t ∧
      (portOf (inSt .bitHigh)).rst = false ∧ accepts (portOf (inSt .bitHigh)).start (inSt .bitHigh) = false ∧
      isIllegal (inSt .bitHigh).st = false ∧ t.st ≠ (inSt .bitHigh).st) ∧
    (∃ t, exec (.driveLow 20000#16) (noTick .startLow) = .next t ∧ (portOf (noTick .startLow)).rst = false ∧
      accepts (portOf (noTick .startLow)).start (noTick .startLow) = false ∧
      isIllegal (noTick .startLow).st = false ∧ (noTick .startLow).presc ≠ (noTick .startLow).cfg.clkPerUs - 1) := by
  refine ⟨⟨_, rfl, rfl, ?_⟩, ⟨_, rfl, rfl, ?_⟩, ⟨_, rfl, ?_⟩⟩ <;> decide

theorem witness_ReservedOperandsAreRefused :
    (portOf (inSt .idle)).rst = false ∧ (0#16 : Ticks).toNat < 2 ∧ (1#16 : Ticks).toNat < 2 := by decide

theorem witness_DriveLastsExactlyItsDuration :
    (1#16 : Ticks) ≠ 0#16 ∧ (1#16 : Ticks).toNat ≤ [true].length ∧ ([] : List Level).length < (1#16 : Ticks).toNat := by
  decide

theorem witness_MeasurementIsMinOfLengthAndCeiling : 2 ≤ (2#16 : Ticks).toNat ∧ 1 ≤ 1 := by decide

theorem witness_CommandTable :
    (inSt .bitLow).cfg.legal = true ∧ (inSt .bitLow).cfg = Params.default ∧ (inSt .bitLow).st = .bitLow ∧
    (inSt .bitLow).bidx = 0#6 ∧ { inSt .bitLow with bidx := 1#6 }.bidx ≠ 0#6 ∧ (inSt .startLow).st = .startLow ∧
    isBusy (inSt .idle).st = false := by decide

theorem witness_CheckPublishesOrFails :
    (portOf (inSt .check)).rst = false ∧ (inSt .check).st = .check ∧
    (inSt .check).presc = (inSt .check).cfg.clkPerUs - 1 := by decide

theorem witness_FirstBitEndsOnTop : (List.replicate 40 true).length = 40 ∧ 0 < 40 ∧ 39 < 40 := by decide

theorem witness_ChecksumDetectsSingleBitErrors :
    (0 < 40 ∧ 39 < 40 ∧ checksumOk (frameOf 55 0 24 0 79) = true) ∧
    (0 < 8 ∧ (frameOf 0 1 0 0 1).getLsbD (32 + 0) = false ∧ (frameOf 0 1 0 0 1).getLsbD (24 + 0) = true) ∧
    (7 < 8 ∧ (frameOf 0 128 0 0 128).getLsbD (32 + 7) = false ∧ (frameOf 0 128 0 0 128).getLsbD (24 + 7) = true) := by
  decide

theorem witness_StartConditionIgnoresTheLine :
    (inSt .startLow).cfg.legal = true ∧ (inSt .startLow).st = .startLow ∧ (inSt .startLow).tcnt = 0#16 ∧
    (List.replicate 20030 false).length = (inSt .startLow).cfg.tStartLow + (inSt .startLow).cfg.tRelHigh :=
  ⟨by decide, rfl, rfl, List.length_replicate⟩

/-- The four clauses at their boundaries: HS-2, HS-4, HS-7; HS-3; HS-6; HS-8. -/
theorem witness_HandshakeWindows :
    ((inSt .awaitAck).cfg.legal = true ∧ (inSt .awaitAck).st = .awaitAck ∧ (inSt .awaitAck).tcnt = 0#16 ∧
      (inSt .awaitAck).bidx = 0#6) ∧
    (100 ≤ (inSt .awaitAck).cfg.tAckTo ∧ 101 ≤ (inSt .awaitAck).cfg.tAckTo + 1 ∧
      101 ≤ (inSt .awaitAck).cfg.tBit0LowTo + 1) ∧
    (inSt .awaitAck).cfg.tAckTo < 101 ∧ (inSt .awaitAck).cfg.tAckTo + 1 < 102 ∧
    (inSt .awaitAck).cfg.tBit0LowTo + 1 < 102 := by decide

/-- BT-2 and BT-3, BT-8: the last low phase and high phase within the windows, and the first one too long. -/
theorem witness_BitWindow :
    (inSt .bitHigh).cfg.legal = true ∧ (inSt .bitHigh).st = .bitHigh ∧ (inSt .bitHigh).tcnt = 0#16 ∧
    { inSt .bitHigh with bidx := 39#6 }.bidx.toNat ≤ 39 ∧ 71 ≤ (inSt .bitHigh).cfg.tBitTo + 1 ∧
    119 < (inSt .bitHigh).cfg.tCap ∧ (inSt .bitHigh).cfg.tBitTo + 1 < 72 := by decide

/-- BT-9, BT-10, BT-11, BT-12 -/
theorem witness_CappedBitWindow :
    (inSt .bitHigh).cfg.legal = true ∧ (inSt .bitHigh).st = .bitHigh ∧ (inSt .bitHigh).tcnt = 0#16 ∧
    { inSt .bitHigh with bidx := 38#6 }.bidx.toNat = 38 ∧ { inSt .bitHigh with bidx := 39#6 }.bidx.toNat = 39 ∧
    71 ≤ (inSt .bitHigh).cfg.tBitTo + 1 ∧ (inSt .bitHigh).cfg.tCap ≤ 120 ∧
    190 ≤ (inSt .bitHigh).cfg.tCap + (inSt .bitHigh).cfg.tBitTo ∧
    (inSt .bitHigh).cfg.tCap + (inSt .bitHigh).cfg.tBitTo < 191 ∧ (inSt .bitHigh).cfg.tCap ≤ 5000 := by decide

/-- Every bit at the ends of its windows: 39 capped bits, the last one high for 5000 samples (BT-10, BT-12). -/
theorem witness_FortyBitsAreCapturedInOrder :
    (inSt .bitHigh).cfg.legal = true ∧ (inSt .bitHigh).st = .bitHigh ∧ (inSt .bitHigh).tcnt = 0#16 ∧
    (inSt .bitHigh).bidx = 0#6 ∧ (List.replicate 39 ((71, 190) : Nat × Nat)).length = 39 ∧
    (∀ p ∈ List.replicate 39 ((71, 190) : Nat × Nat), 1 ≤ p.1 ∧ p.1 ≤ (inSt .bitHigh).cfg.tBitTo + 1 ∧
      1 ≤ p.2 ∧ p.2 ≤ (inSt .bitHigh).cfg.tCap + (inSt .bitHigh).cfg.tBitTo) ∧
    1 ≤ ((71, 5000) : Nat × Nat).1 ∧ ((71, 5000) : Nat × Nat).1 ≤ (inSt .bitHigh).cfg.tBitTo + 1 ∧
    1 ≤ ((71, 5000) : Nat × Nat).2 := by decide

/-- The frame that 39 bits of 26 us and a last bit of `h` us decode to (42_checksum_frame.md R170, R171). -/
def shortBitsThen (h : Nat) : Frame :=
  (List.replicate 39 false ++ [decide (Params.default.tThresh < h)]).foldl shiftIn 0#40

/-- The same bits end in a match with a last bit of 26 us, in a mismatch with one of 70 us (R179: 0 0 0 0 1). -/
theorem witness_TransactionDecodesTheFrame :
    ((inSt .startLow).cfg.legal = true ∧ (inSt .startLow).st = .startLow ∧ (inSt .startLow).tcnt = 0#16 ∧
      (inSt .startLow).bidx = 0#6 ∧
      (List.replicate 20030 true).length = (inSt .startLow).cfg.tStartLow + (inSt .startLow).cfg.tRelHigh) ∧
    (20 ≤ (inSt .startLow).cfg.tAckTo ∧ 80 ≤ (inSt .startLow).cfg.tAckTo + 1 ∧
      80 ≤ (inSt .startLow).cfg.tBit0LowTo + 1) ∧
    ((List.replicate 39 ((50, 26) : Nat × Nat)).length = 39 ∧
      (∀ p ∈ List.replicate 39 ((50, 26) : Nat × Nat), 1 ≤ p.1 ∧ p.1 ≤ (inSt .startLow).cfg.tBitTo + 1 ∧
        1 ≤ p.2 ∧ p.2 ≤ (inSt .startLow).cfg.tCap + (inSt .startLow).cfg.tBitTo) ∧
      50 ≤ (inSt .startLow).cfg.tBitTo + 1) ∧
    checksumOk (shortBitsThen 26) = true ∧ checksumOk (shortBitsThen 70) = false :=
  ⟨⟨by decide, rfl, rfl, rfl, List.length_replicate⟩, by decide, by decide, by decide +kernel, by decide +kernel⟩

/-- EX-1 -/
theorem witness_EveryFailureTakesTheFailurePath :
    ∃ t, step { inSt .awaitAck with tcnt := 100#16 } = .next t ∧ (inSt .awaitAck).st ≠ .failed ∧ t.st = .failed := by
  refine ⟨_, rfl, ?_⟩; decide

theorem witness_FailureCauses :
    ∃ t, (inSt .awaitAck).cfg.legal = true ∧ step { inSt .awaitAck with tcnt := 100#16 } = .next t ∧
      (inSt .awaitAck).st ≠ .failed := by
  refine ⟨_, by decide, rfl, by decide⟩

theorem witness_OnlyAMatchPublishes : ∃ t, step { inSt .check with shreg := 0x370018004F#40 } = .next t := ⟨_, rfl⟩

theorem witness_QuiescentStatesHold :
    ((inSt .idle).st = .idle ∧ (portOf (inSt .idle)).rst = false ∧ (portOf (inSt .idle)).start = false) ∧
    (afterA.st = .done ∧ (portOf afterA).rst = false ∧ (portOf afterA).start = false) ∧
    (afterC.st = .failed ∧ (portOf afterC).rst = false ∧ (portOf afterC).start = false) := by decide

theorem witness_HostCannotDisturbATransaction :
    isBusy (inSt .startLow).st = true ∧ isBusy (inSt .check).st = true ∧ (port true true).rst = false := by decide

/-- A word that decodes, and a reserved one: parameters outside their ranges (T_START_LOW = 0) lead to DRIVE_LOW 0. -/
theorem witness_StepRunsTheDecodedInstruction :
    decode .host (hostBytes (hostFields (portOf (inSt .idle)).start (portOf (inSt .idle)).rsel)) = .ok (.rdStatus, []) ∧
    decode .ltu (ltuBytes (commandWord Params.default 0#6 .startLow)) = .ok (.driveLow 20000#16, []) ∧
    decode .ltu (ltuBytes (commandWord { Params.default with tStartLow := 0 } 0#6 .startLow)) =
      .error .reservedDrive ∧
    (portOf (inSt .startLow)).rst = false := by decide

theorem witness_CyclesRefineTheTickMachine :
    (∃ t, step (inSt .startLow) = .next t ∧ (portOf (inSt .startLow)).rst = false ∧
      isIllegal (inSt .startLow).st = false ∧
      ¬ ((portOf (inSt .startLow)).start = true ∧ acceptsRead (inSt .startLow).st = true) ∧
      (inSt .startLow).presc = (inSt .startLow).cfg.clkPerUs - 1) ∧
    (∃ t, step (noTick .startLow) = .next t ∧ (portOf (noTick .startLow)).rst = false ∧
      isIllegal (noTick .startLow).st = false ∧
      ¬ ((portOf (noTick .startLow)).start = true ∧ acceptsRead (noTick .startLow).st = true) ∧
      (noTick .startLow).presc ≠ (noTick .startLow).cfg.clkPerUs - 1) := by
  refine ⟨⟨_, rfl, ?_⟩, ⟨_, rfl, ?_⟩⟩ <;> decide

/-- A busy block whose host holds `start` = 1 (program P5 of 95_test_vectors.md). -/
def heldStart : State := { noTick .startLow with inputs := [port true true, port true true] }

theorem witness_TicksComeEveryClkPerUsCycles :
    heldStart.cfg.legal = true ∧ heldStart.presc = 0 ∧ isIllegal heldStart.st = false ∧
    (∀ m v, m < 2 → Host.Core.run core m heldStart = .next v →
      (portOf v).rst = false ∧ ¬ ((portOf v).start = true ∧ acceptsRead v.st = true)) ∧
    ∃ t, Host.Core.run core 2 heldStart = .next t := by
  refine ⟨by decide, by decide, by decide, fun m v hm h => ?_, _, rfl⟩
  obtain rfl | rfl : m = 0 ∨ m = 1 := by omega
  all_goals cases h; decide

theorem witness_SampleIsTwoCyclesOld :
    (∃ t u, step (inSt .awaitAck) = .next t ∧ step t = .next u ∧ (portOf (inSt .awaitAck)).rst = false ∧
      (portOf t).rst = false ∧ isIllegal (inSt .awaitAck).st = false ∧
      (portOf (inSt .awaitAck)).line = .environment true) ∧
    (∃ t u, step { inSt .startLow with inputs := [{ port false true with line := .overridden true }, port false true] }
        = .next t ∧ step t = .next u ∧ (portOf t).rst = false) := by
  refine ⟨⟨_, _, rfl, rfl, ?_⟩, ⟨_, _, rfl, rfl, ?_⟩⟩ <;> decide

theorem witness_InvariantIsKept : ∃ t, Inv (inSt .startLow) ∧ step (inSt .startLow) = .next t := ⟨_, inv_startLow, rfl⟩

/-- `Params.default` is legal. -/
theorem witness_InvariantHoldsAtReset : Params.default.legal = true := by decide

theorem witness_ReachableStatesMeetTheirInvariants :
    Inv afterA ∧ ∃ t, Host.Core.run core 0 State.reset = .next t := ⟨inv_afterA, _, rfl⟩

/-- Items 1, 2 of R44 have premises of their own. -/
theorem witness_ReachableFacts :
    Inv { inSt .check with bidx := 40#6 } ∧ ({ inSt .check with bidx := 40#6 } : State).bidx = 40#6 ∧
    inCapture .bitLow ∧ inCapture .bitHigh ∧ inCapture .bitMeas ∧ 0 ≤ 39 :=
  ⟨inv_check, rfl, .inl rfl, .inr (.inl rfl), .inr (.inr rfl), by decide⟩

theorem witness_BlockNeverStops : Inv (inSt .startLow) := inv_startLow

theorem witness_ShownFramesAreValid :
    ∃ t, Inv afterA ∧ step afterA = .next t ∧ regView t 2#2 ≠ 0#32 := by
  refine ⟨_, inv_afterA, rfl, ?_⟩; decide

theorem witness_EveryTickMakesProgress :
    (∃ t, Inv (inSt .startLow) ∧ isBusy (inSt .startLow).st = true ∧ (portOf (inSt .startLow)).rst = false ∧
      step (inSt .startLow) = .next t ∧ (inSt .startLow).presc = (inSt .startLow).cfg.clkPerUs - 1) ∧
    (∃ t, Inv (noTick .startLow) ∧ isBusy (noTick .startLow).st = true ∧ (portOf (noTick .startLow)).rst = false ∧
      step (noTick .startLow) = .next t ∧ (noTick .startLow).presc ≠ (noTick .startLow).cfg.clkPerUs - 1) := by
  refine ⟨⟨_, inv_startLow, rfl, rfl, rfl, rfl⟩, ⟨_, inv_noTick, rfl, rfl, rfl, ?_⟩⟩; decide

theorem witness_TransactionEndsWithinTheBound :
    (Inv (inSt .idle) ∧ acceptsRead (inSt .idle).st = true ∧ (portOf (inSt .idle)).rst = false) ∧
    (Inv afterA ∧ acceptsRead afterA.st = true ∧ (portOf afterA).rst = false) :=
  ⟨⟨inv_idle, rfl, rfl⟩, inv_afterA, rfl, rfl⟩

theorem witness_DecodeOfEncode :
    (Instr.driveLow 1#16).wf = true ∧ (Instr.driveHigh 65535#16).wf = true ∧ (Instr.measureHigh 2#16).wf = true ∧
    (Instr.waitLow 65535#16).wf = true ∧ (Instr.read 3#2).wf = true := by decide

theorem witness_EncodeOfDecode :
    decode .host [7#8, 9#8] = .ok (.read 3#2, [9#8]) ∧
    decode .ltu [0x20#8, 0x4E#8, 0x02#8, 9#8] = .ok (.driveLow 20000#16, [9#8]) := by decide

theorem witness_LineIsDriven_ReservedLtuWords :
    (inSt .bitMeas).cfg.legal = true ∧ currentCommand (inSt .bitMeas) = .ok (.measureHigh 120#16) := by decide

theorem witness_PlacedWordRuns :
    (currentCommand State.reset = .ok .release ∧ decodeTableWord 8 4 = some (.read 0#2)) ∧
    (currentCommand State.reset = .ok .release ∧ decodeTableWord 24 0x70002 = some (.measureHigh 2#16)) := by decide

end Sys2Proof.Tests
end

section
/-! Scope (00_scope.md): the cycle machine against the tick-level machine of R29. -/

namespace Sys2Proof.Machine

/-- A port that asks for no acceptable READ gives no acceptance (43_host_interface.md R190). -/
theorem accepts_eq_false {start : Bool} {s : State} (h : ¬ (start = true ∧ acceptsRead s.st = true)) :
    accepts start s = false := by
  simpa [accepts] using h

/-- Settles O45: of the four things a step without reset can do to the sequencer (60_exceptions.md R215), acceptance and
the recovery of an illegal code are shut out, and the two that are left are the tick and the hold of R29. -/
theorem cyclesRefineTheTickMachine : Obligations.CyclesRefineTheTickMachine := by
  intro s t hstep hrst hlegal hstart
  have hacc : accepts (portOf s).start s = false := accepts_eq_false hstart
  rcases step_sequencer hstep hrst with
    ⟨haccepted, _⟩ | ⟨_, hillegal, _⟩ | ⟨_, _, htick, hsame⟩ | ⟨_, _, hnoTick, hsame⟩
  · simp [hacc] at haccepted
  · simp [hlegal] at hillegal
  · exact ⟨fun _ => hsame, fun hne => absurd htick hne⟩
  · exact ⟨fun heq => absurd heq hnoTick, fun _ => hsame⟩

end Sys2Proof.Machine
end

section
/-! The tick of each sequencer state, said once: the command its row of 30_encoding.md R89 gives, and what the state's rule
makes of that command's result (41_decoder_sequence.md R141 to R149). -/

namespace Sys2Proof.Machine

/-! ### The command of each state that times the line -/

theorem tickArg_ne_zero {p : Nat} (hpos : 1 ≤ p) (hle : p ≤ 65535) : tickArg p ≠ 0#16 := by
  intro h
  have := congrArg BitVec.toNat h
  rw [tickArg_toNat hle, BitVec.toNat_ofNat] at this
  omega

theorem currentCommand_startLow {s : State} (hl : s.cfg.legal = true) (hs : s.st = .startLow) :
    currentCommand s = .ok (.driveLow (tickArg s.cfg.tStartLow)) := by
  have hlegal := (Params.legal_iff _).1 hl
  have hne : tickArg s.cfg.tStartLow ≠ 0#16 := tickArg_ne_zero (by omega) (by omega)
  rw [currentCommand, hs, commandWord, decodeLtu_fields]
  simp [hne]

theorem currentCommand_startHigh {s : State} (hl : s.cfg.legal = true) (hs : s.st = .startHigh) :
    currentCommand s = .ok (.driveHigh (tickArg s.cfg.tRelHigh)) := by
  have hlegal := (Params.legal_iff _).1 hl
  have hne : tickArg s.cfg.tRelHigh ≠ 0#16 := tickArg_ne_zero (by omega) (by omega)
  rw [currentCommand, hs, commandWord, decodeLtu_fields]
  simp [hne]

theorem currentCommand_awaitAck {s : State} (hs : s.st = .awaitAck) :
    currentCommand s = .ok (.waitLow (tickArg s.cfg.tAckTo)) := by
  rw [currentCommand, hs, commandWord, decodeLtu_fields]; simp

theorem currentCommand_ackLow {s : State} (hs : s.st = .ackLow) :
    currentCommand s = .ok (.waitHigh (tickArg s.cfg.tAckTo)) := by
  rw [currentCommand, hs, commandWord, decodeLtu_fields]; simp

theorem currentCommand_bitLow {s : State} (hs : s.st = .bitLow) :
    currentCommand s = .ok (.waitLow (tickArg (bitLowTimeout s.cfg s.bidx))) := by
  rw [currentCommand, hs, commandWord, decodeLtu_fields]; simp

theorem currentCommand_bitHigh {s : State} (hs : s.st = .bitHigh) :
    currentCommand s = .ok (.waitHigh (tickArg s.cfg.tBitTo)) := by
  rw [currentCommand, hs, commandWord, decodeLtu_fields]; simp

theorem currentCommand_bitMeas {s : State} (hl : s.cfg.legal = true) (hs : s.st = .bitMeas) :
    currentCommand s = .ok (.measureHigh (tickArg s.cfg.tCap)) := by
  have hlegal := (Params.legal_iff _).1 hl
  have hge : ¬ (tickArg s.cfg.tCap).toNat < 2 := by rw [tickArg_toNat (by omega)]; omega
  rw [currentCommand, hs, commandWord, decodeLtu_fields]
  simp [hge]

/-! ### The rule and the tick of each state -/

theorem tickStep_of_command {x : Level} {s : State} {cmd : Instr} (h : currentCommand s = .ok cmd) :
    tickStep x s = seqTick (ltuStep cmd s.tcnt x) s := by simp [tickStep, h]

theorem seqTick_startLow {s : State} (r : LtuResult) (hs : s.st = .startLow) : seqTick r s = phaseStartLow r s := by
  simp only [seqTick, hs]

theorem seqTick_startHigh {s : State} (r : LtuResult) (hs : s.st = .startHigh) : seqTick r s = phaseStartHigh r s := by
  simp only [seqTick, hs]

theorem seqTick_awaitAck {s : State} (r : LtuResult) (hs : s.st = .awaitAck) : seqTick r s = phaseAwaitAck r s := by
  simp only [seqTick, hs]

theorem seqTick_ackLow {s : State} (r : LtuResult) (hs : s.st = .ackLow) : seqTick r s = phaseAckLow r s := by
  simp only [seqTick, hs]

theorem seqTick_bitLow {s : State} (r : LtuResult) (hs : s.st = .bitLow) : seqTick r s = phaseBitLow r s := by
  simp only [seqTick, hs]

theorem seqTick_bitHigh {s : State} (r : LtuResult) (hs : s.st = .bitHigh) : seqTick r s = phaseBitHigh r s := by
  simp only [seqTick, hs]

theorem seqTick_bitMeas {s : State} (r : LtuResult) (hs : s.st = .bitMeas) : seqTick r s = phaseBitMeas r s := by
  simp only [seqTick, hs]

theorem tickStep_startLow {s : State} (x : Level) (hl : s.cfg.legal = true) (hs : s.st = .startLow) :
    tickStep x s =
      if s.tcnt + 1#16 = tickArg s.cfg.tStartLow then { s with st := .startHigh, tcnt := 0#16 }
      else { s with tcnt := s.tcnt + 1#16 } := by
  rw [tickStep_of_command (currentCommand_startLow hl hs), seqTick_startLow _ hs]
  simp only [ltuStep, ltuDrive]
  split <;> rfl

theorem tickStep_startHigh {s : State} (x : Level) (hl : s.cfg.legal = true) (hs : s.st = .startHigh) :
    tickStep x s =
      if s.tcnt + 1#16 = tickArg s.cfg.tRelHigh then { s with st := .awaitAck, tcnt := 0#16 }
      else { s with tcnt := s.tcnt + 1#16 } := by
  rw [tickStep_of_command (currentCommand_startHigh hl hs), seqTick_startHigh _ hs]
  simp only [ltuStep, ltuDrive]
  split <;> rfl

theorem tickStep_awaitAck {s : State} (x : Level) (hs : s.st = .awaitAck) :
    tickStep x s =
      if x = false then { s with st := .ackLow, tcnt := 0#16 }
      else if s.tcnt = tickArg s.cfg.tAckTo then raiseFailure .handshakeTimeout s
      else { s with tcnt := s.tcnt + 1#16 } := by
  rw [tickStep_of_command (currentCommand_awaitAck hs), seqTick_awaitAck _ hs]
  simp only [ltuStep, ltuWait]
  split
  · rfl
  · split <;> rfl

theorem tickStep_ackLow {s : State} (x : Level) (hs : s.st = .ackLow) :
    tickStep x s =
      if x = true then { s with st := .bitLow, tcnt := 0#16 }
      else if s.tcnt = tickArg s.cfg.tAckTo then raiseFailure .handshakeTimeout s
      else { s with tcnt := s.tcnt + 1#16 } := by
  rw [tickStep_of_command (currentCommand_ackLow hs), seqTick_ackLow _ hs]
  simp only [ltuStep, ltuWait]
  split
  · rfl
  · split <;> rfl

theorem tickStep_bitLow {s : State} (x : Level) (hs : s.st = .bitLow) :
    tickStep x s =
      if x = false then { s with st := .bitHigh, tcnt := 0#16 }
      else if s.tcnt = tickArg (bitLowTimeout s.cfg s.bidx) then raiseFailure .bitTimeout s
      else { s with tcnt := s.tcnt + 1#16 } := by
  rw [tickStep_of_command (currentCommand_bitLow hs), seqTick_bitLow _ hs]
  simp only [ltuStep, ltuWait]
  split
  · rfl
  · split <;> rfl

/-- The sample that ends BIT_HIGH is counted (R146). -/
theorem tickStep_bitHigh {s : State} (x : Level) (hs : s.st = .bitHigh) :
    tickStep x s =
      if x = true then { s with st := .bitMeas, tcnt := 1#16 }
      else if s.tcnt = tickArg s.cfg.tBitTo then raiseFailure .bitTimeout s
      else { s with tcnt := s.tcnt + 1#16 } := by
  rw [tickStep_of_command (currentCommand_bitHigh hs), seqTick_bitHigh _ hs]
  simp only [ltuStep, ltuWait]
  split
  · rfl
  · split <;> rfl

theorem tickStep_bitMeas {s : State} (x : Level) (hl : s.cfg.legal = true) (hs : s.st = .bitMeas) :
    tickStep x s =
      if x = false then phaseBitMeas (.meas s.tcnt true) s
      else if s.tcnt + 1#16 = tickArg s.cfg.tCap then phaseBitMeas (.meas (tickArg s.cfg.tCap) false) s
      else { s with tcnt := s.tcnt + 1#16 } := by
  rw [tickStep_of_command (currentCommand_bitMeas hl hs), seqTick_bitMeas _ hs]
  simp only [ltuStep, ltuMeasure]
  split
  · rfl
  · split <;> rfl

theorem tickStep_check {s : State} (x : Level) (hs : s.st = .check) : tickStep x s = phaseCheck s := by
  rw [tickStep_of_command (currentCommand_release (.inr hs))]
  simp only [seqTick, hs]

theorem tickStep_quiet {s : State} (x : Level) (hs : isBusy s.st = false) : tickStep x s = s := by
  rw [tickStep_of_command (currentCommand_release (.inl hs)), seqTick_quiet hs]

/-! ### The counter, the shift register and the prescaler in numbers -/

theorem eq_tickArg_iff {c : Ticks} {p : Nat} (hp : p ≤ 65535) : c = tickArg p ↔ c.toNat = p := by
  rw [← BitVec.toNat_inj, tickArg_toNat hp]

/-- A counter below its end meets it exactly when one more tick is the last (R114, R115, R118). -/
theorem succ_eq_tickArg_iff {c : Ticks} {p : Nat} (hp : p ≤ 65535) (hc : c.toNat < p) :
    c + 1#16 = tickArg p ↔ c.toNat + 1 = p := by
  rw [eq_tickArg_iff hp, toNat_succ (by omega)]

/-- `{shreg[38:0], b}` as a number: bit 39 is lost, the new bit is the lowest (42_checksum_frame.md R171). -/
theorem shiftIn_toNat (v : Frame) (b : Bool) : (shiftIn v b).toNat = 2 * (v.toNat % 2 ^ 39) + b.toNat := by
  have hb : (BitVec.ofBool b).toNat < 2 ^ 1 := (BitVec.ofBool b).isLt
  simp only [shiftIn, cat, BitVec.toNat_cast, BitVec.toNat_append]
  rw [← Nat.shiftLeft_add_eq_or_of_lt hb]
  simp [Nat.shiftLeft_eq, Nat.mul_comm]

/-- A shift register that holds `k` bits holds `k + 1` after one more. -/
theorem shiftIn_lt {v : Frame} {k : Nat} (b : Bool) (hv : v.toNat < 2 ^ k) : (shiftIn v b).toNat < 2 ^ (k + 1) := by
  have hb := b.toNat_lt
  have hmod := Nat.mod_le v.toNat (2 ^ 39)
  rw [shiftIn_toNat, Nat.pow_succ]
  omega

/-- The prescaler counts modulo `CLK_PER_US`, and an acceptance restarts it (10_state.md R37): its width never cuts a
count short. -/
theorem prescNext_eq {s : State} (accept : Bool) (h : s.presc < s.cfg.clkPerUs) :
    prescNext accept s = if accept then 0 else (s.presc + 1) % s.cfg.clkPerUs := by
  unfold prescNext
  split
  · rfl
  · by_cases htick : s.presc = s.cfg.clkPerUs - 1
    · have hwrap : s.presc + 1 = s.cfg.clkPerUs := by omega
      rw [if_pos (by simpa [isTick] using htick), hwrap, Nat.mod_self]
    · have hwidth : s.cfg.clkPerUs - 1 < 2 ^ prescWidth s.cfg.clkPerUs := Nat.lt_log2_self
      rw [if_neg (by simpa [isTick] using htick), Nat.mod_eq_of_lt (by omega), Nat.mod_eq_of_lt (by omega)]

theorem prescNext_lt {s : State} (accept : Bool) (h : s.presc < s.cfg.clkPerUs) :
    prescNext accept s < s.cfg.clkPerUs := by
  rw [prescNext_eq accept h]
  split
  · omega
  · exact Nat.mod_lt _ (by omega)

/-- A step without reset from a legal state code: the parameters stay and the prescaler goes on (10_state.md R37). -/
theorem step_prescaler {s t : State} (h : step s = .next t) (hr : (portOf s).rst = false)
    (hi : isIllegal s.st = false) :
    t.cfg = s.cfg ∧ t.presc = prescNext (accepts (portOf s).start s) s := by
  rcases step_next h with ⟨hrst, _⟩ | ⟨cmd, _, _, rfl⟩
  · simp [hr] at hrst
  · exact ⟨(clockEdge_frame _ _ _ _).1, (clockEdge_goes_on hi).1⟩

end Sys2Proof.Machine
end

section
/-! The invariant (10_state.md R44 made inductive) is kept: by reset, by an acceptance and by the tick of every state.
A tick does one of four things to the registers the invariant speaks of: it moves on to a state whose registers are as
the invariant asks (`Inv.advance`), it fails (`Inv.fail`), it takes in a bit (`Inv.takeBit`), or it closes the frame
(`Inv.check`). -/

namespace Sys2Proof.Machine

/-- The invariant looks at the sequencer's registers and the prescaler only. -/
theorem Inv.of_same {t u : State} (h : Inv u) (hsame : SameSequencer t u) (hpresc : t.presc < t.cfg.clkPerUs) :
    Inv t := by
  obtain ⟨cfg, st, bidx, shreg, tcnt, presc, sync1, sync2, outcome, resFrame, rdata, inputs, cycle⟩ := t
  obtain ⟨hcfg, hst, htcnt, hbidx, hshreg, houtcome, hresFrame⟩ := hsame
  dsimp only at hcfg hst htcnt hbidx hshreg houtcome hresFrame
  subst hcfg hst htcnt hbidx hshreg houtcome hresFrame
  exact ⟨h.legal, hpresc, h.counter, h.outcome, h.bidxLe, h.start, h.capture, h.full, h.result, h.noResult⟩

theorem inv_afterReset {p : Params} (hp : p.legal = true) : Inv (State.afterReset p) where
  legal := hp
  presc := ((Params.legal_iff p).1 hp).1
  counter := rfl
  outcome := rfl
  bidxLe := Nat.zero_le _
  start := fun _ => ⟨rfl, rfl⟩
  capture := by simp [State.afterReset, inCapture]
  full := by simp [State.afterReset]
  result := by simp [State.afterReset]
  noResult := fun _ => rfl

/-- A reset edge leaves what the invariant speaks of as it is right after reset (70_reset_and_hazards.md R240). -/
theorem inv_resetEdge {s : State} (rsel : BitVec 2) (h : s.cfg.legal = true) : Inv (resetEdge rsel s) :=
  (inv_afterReset h).of_same ⟨rfl, rfl, rfl, rfl, rfl, rfl, rfl⟩ ((Params.legal_iff _).1 h).1

theorem inv_acceptRead {s : State} (h : s.cfg.legal = true) : Inv (acceptRead s) where
  legal := h
  presc := ((Params.legal_iff _).1 h).1
  counter := by
    have hlegal := (Params.legal_iff _).1 h
    simp [counterOk]; omega
  outcome := rfl
  bidxLe := by simp
  start := fun _ => ⟨rfl, rfl⟩
  capture := by simp [inCapture]
  full := by simp
  result := by simp
  noResult := fun _ => rfl

/-- `FAILED` may be entered from any state that shows no result: `bidx` and `res_frame` stay (60_exceptions.md R213). -/
theorem Inv.fail {s : State} (h : Inv s) (kind : FailureKind) (hs : s.st ≠ .done) : Inv (raiseFailure kind s) where
  legal := h.legal
  presc := h.presc
  counter := rfl
  outcome := ⟨kind, rfl⟩
  bidxLe := h.bidxLe
  start := by simp [inHandshake]
  capture := by simp [inCapture]
  full := by simp
  result := by simp
  noResult := fun _ => h.noResult hs

/-! ### From START_LOW to BIT_MEAS -/

theorem not_inCapture_of_inHandshake {st : SeqState} (h : inHandshake st) : ¬ inCapture st := by
  rcases h with rfl | rfl | rfl | rfl <;> simp [inCapture]

/-- Neither before the transaction nor past the capture of its bits. -/
theorem transaction_ne {st : SeqState} (h : inHandshake st ∨ inCapture st) :
    st ≠ .idle ∧ st ≠ .check ∧ st ≠ .done := by
  rcases h with (rfl | rfl | rfl | rfl) | (rfl | rfl | rfl) <;> simp

theorem outcomeOk_iff_none {s : State} (h : inHandshake s.st ∨ inCapture s.st) :
    outcomeOk s ↔ s.outcome = .none := by
  rcases h with (hs | hs | hs | hs) | (hs | hs | hs) <;> simp only [outcomeOk, hs]

/-- Before CHECK a transaction has no outcome and no result. -/
theorem Inv.unresolved {s : State} (h : Inv s) (hs : inHandshake s.st ∨ inCapture s.st) :
    s.outcome = .none ∧ s.resFrame = 0#40 :=
  ⟨(outcomeOk_iff_none hs).1 h.outcome, h.noResult (transaction_ne hs).2.2⟩

/-- The bits captured so far, from START_LOW to BIT_MEAS: none in the handshake. -/
theorem Inv.captured {s : State} (h : Inv s) (hs : inHandshake s.st ∨ inCapture s.st) :
    s.bidx.toNat ≤ 39 ∧ s.shreg.toNat < 2 ^ s.bidx.toNat := by
  rcases hs with hs | hs
  · obtain ⟨hbidx, hshreg⟩ := h.start (.inr hs)
    simp [hbidx, hshreg]
  · exact h.capture hs

/-- What a state of the handshake or of the capture must meet, besides its counter. -/
theorem Inv.of_transaction {s : State} (hlegal : s.cfg.legal = true) (hpresc : s.presc < s.cfg.clkPerUs)
    (hcounter : counterOk s) (hnone : s.outcome = .none ∧ s.resFrame = 0#40)
    (hs : inHandshake s.st ∧ s.bidx = 0#6 ∧ s.shreg = 0#40 ∨
      inCapture s.st ∧ s.bidx.toNat ≤ 39 ∧ s.shreg.toNat < 2 ^ s.bidx.toNat) : Inv s := by
  have hst : inHandshake s.st ∨ inCapture s.st := hs.imp And.left And.left
  obtain ⟨hidle, hcheck, hdone⟩ := transaction_ne hst
  exact
    { legal := hlegal
      presc := hpresc
      counter := hcounter
      outcome := (outcomeOk_iff_none hst).2 hnone.1
      bidxLe := by
        rcases hs with ⟨_, hzero, _⟩ | ⟨_, hle, _⟩
        · simp [hzero]
        · omega
      start := fun hstart => by
        rcases hs with ⟨_, hzero⟩ | ⟨hcap, _⟩
        · exact hzero
        · exact absurd hcap (not_inCapture_of_inHandshake (hstart.resolve_left hidle))
      capture := fun hcap => by
        rcases hs with ⟨hhs, _⟩ | ⟨_, hbits⟩
        · exact absurd hcap (not_inCapture_of_inHandshake hhs)
        · exact hbits
      full := fun h => (h.elim hcheck hdone).elim
      result := fun h => absurd h hdone
      noResult := fun _ => hnone.2 }

/-- A tick that writes `st` and `tcnt` only, on the way from START_LOW to BIT_MEAS. -/
theorem Inv.advance {s : State} (h : Inv s) {st : SeqState} {c : Ticks}
    (hst : inHandshake s.st ∧ (inHandshake st ∨ inCapture st) ∨ inCapture s.st ∧ inCapture st)
    (hcounter : counterOk { s with st := st, tcnt := c }) : Inv { s with st := st, tcnt := c } := by
  have hfrom : inHandshake s.st ∨ inCapture s.st := hst.imp And.left And.left
  refine .of_transaction h.legal h.presc hcounter (h.unresolved hfrom) ?_
  rcases hst with ⟨hs, hto | hto⟩ | ⟨_, hto⟩
  · exact .inl ⟨hto, h.start (.inr hs)⟩
  · exact .inr ⟨hto, h.captured hfrom⟩
  · exact .inr ⟨hto, h.captured hfrom⟩

/-- A tick that writes the counter only. -/
theorem Inv.count {s : State} (h : Inv s) {c : Ticks} (hs : inHandshake s.st ∨ inCapture s.st)
    (hcounter : counterOk { s with tcnt := c }) : Inv { s with tcnt := c } :=
  h.advance (st := s.st) (hs.imp (fun hh => ⟨hh, .inl hh⟩) (fun hc => ⟨hc, hc⟩)) hcounter

/-- The tick of a state that drives the line for `p` ticks (40_line_transport.md R114, R115). -/
theorem Inv.driveTick {s dest : State} {p : Nat} (h : Inv s) (hs : inHandshake s.st) (hp : p ≤ 65535)
    (hcounter : ∀ c, counterOk { s with tcnt := c } ↔ c.toNat < p) (hdest : Inv dest) :
    Inv (if s.tcnt + 1#16 = tickArg p then dest else { s with tcnt := s.tcnt + 1#16 }) := by
  have hlt : s.tcnt.toNat < p := (hcounter s.tcnt).1 h.counter
  split
  · exact hdest
  · next hne =>
    rw [succ_eq_tickArg_iff hp hlt] at hne
    refine h.count (.inl hs) ((hcounter _).2 ?_)
    rw [toNat_succ (by omega)]
    omega

/-- The tick of a state that waits for a level with bound `p` (40_line_transport.md R116, R117). -/
theorem Inv.waitTick {s dest : State} {p : Nat} {x level : Level} (kind : FailureKind) (h : Inv s)
    (hs : inHandshake s.st ∨ inCapture s.st) (hp : p ≤ 65534)
    (hcounter : ∀ c, counterOk { s with tcnt := c } ↔ c.toNat ≤ p) (hdest : Inv dest) :
    Inv (if x = level then dest
      else if s.tcnt = tickArg p then raiseFailure kind s
      else { s with tcnt := s.tcnt + 1#16 }) := by
  have hle : s.tcnt.toNat ≤ p := (hcounter s.tcnt).1 h.counter
  split
  · exact hdest
  · split
    · exact h.fail kind (transaction_ne hs).2.2
    · next hne =>
      rw [eq_tickArg_iff (by omega)] at hne
      refine h.count hs ((hcounter _).2 ?_)
      rw [toNat_succ (by omega)]
      omega

/-- After the measurement of a bit: CHECK with `bidx` = 40, or the next bit's capture with `bidx` at most 39. -/
theorem afterMeasure_cases {bidx : BitVec 6} (endedLow : Bool) (h : bidx.toNat ≤ 39) :
    (afterMeasure bidx endedLow = .check ∧ bidx + 1#6 = 40#6) ∨
      ((afterMeasure bidx endedLow = .bitHigh ∨ afterMeasure bidx endedLow = .bitLow) ∧ bidx.toNat ≤ 38) := by
  unfold afterMeasure
  split
  · next heq => exact .inl ⟨rfl, heq⟩
  · next hne =>
    refine .inr ⟨by cases endedLow <;> simp, ?_⟩
    rw [← BitVec.toNat_inj, BitVec.toNat_add] at hne
    simp at hne
    omega

/-- The tick that ends a measurement takes in its bit (41_decoder_sequence.md R147). -/
theorem Inv.takeBit {s : State} (h : Inv s) (hs : s.st = .bitMeas) (n : Ticks) (endedLow : Bool) :
    Inv (phaseBitMeas (.meas n endedLow) s) := by
  have hfrom : inHandshake s.st ∨ inCapture s.st := .inr (.inr (.inr hs))
  obtain ⟨hout, hres⟩ := h.unresolved hfrom
  obtain ⟨hbidx, hshreg⟩ := h.captured hfrom
  have hsucc : (s.bidx + 1#6).toNat = s.bidx.toNat + 1 := by
    rw [BitVec.toNat_add]; simp; omega
  rcases afterMeasure_cases endedLow hbidx with ⟨hst, hlast⟩ | ⟨hst, hle⟩
  · rw [phaseBitMeas, hst]
    exact
      { legal := h.legal
        presc := h.presc
        counter := rfl
        outcome := hout
        bidxLe := by simp [hlast]
        start := by simp [inHandshake]
        capture := by simp [inCapture]
        full := fun _ => hlast
        result := by simp
        noResult := fun _ => hres }
  · have hto : inCapture (afterMeasure s.bidx endedLow) := hst.elim (fun hh => .inr (.inl hh)) .inl
    refine .of_transaction h.legal h.presc ?_ ⟨hout, hres⟩ (.inr ⟨hto, ?_, ?_⟩)
    · rcases hst with hst | hst <;> simp [phaseBitMeas, counterOk, hst]
    · simp only [phaseBitMeas, hsucc]; omega
    · simp only [phaseBitMeas, hsucc]
      exact shiftIn_lt _ hshreg

/-! ### The tick of each state -/

/-- The tick of CHECK publishes a frame with a valid checksum, or fails (42_checksum_frame.md R174, R175). -/
theorem Inv.check {s : State} (h : Inv s) (hs : s.st = .check) : Inv (phaseCheck s) := by
  unfold phaseCheck
  split
  · next hok =>
    exact
      { legal := h.legal
        presc := h.presc
        counter := by simpa only [counterOk, hs] using h.counter
        outcome := rfl
        bidxLe := h.bidxLe
        start := by simp [inHandshake]
        capture := by simp [inCapture]
        full := fun _ => h.full (.inl hs)
        result := fun _ => ⟨rfl, hok⟩
        noResult := fun hne => absurd rfl hne }
  · exact h.fail _ (by simp [hs])

/-- The tick of BIT_MEAS: the ceiling has not been reached yet, so the counter stays below it (41_decoder_sequence.md
R147). -/
theorem Inv.measureTick {s : State} (h : Inv s) (hs : s.st = .bitMeas) (x : Level) : Inv (tickStep x s) := by
  have hlegal := (Params.legal_iff _).1 h.legal
  have hcounter := h.counter
  simp only [counterOk, hs] at hcounter
  rw [tickStep_bitMeas x h.legal hs]
  split
  · exact h.takeBit hs _ _
  · split
    · exact h.takeBit hs _ _
    · next hne =>
      rw [succ_eq_tickArg_iff (by omega) hcounter.2] at hne
      refine h.count (.inr (.inr (.inr hs))) ?_
      simp only [counterOk, hs]
      rw [toNat_succ (by omega)]
      omega

/-- BIT_LOW waits at most 65534 ticks (00_scope.md R11, R12). -/
theorem bitLowTimeout_le {p : Params} (bidx : BitVec 6) (h : p.legal = true) : bitLowTimeout p bidx ≤ 65534 := by
  have hlegal := (Params.legal_iff p).1 h
  unfold bitLowTimeout
  split <;> omega

/-- Every tick keeps the invariant, whatever is sampled. -/
theorem Inv.tick {s : State} (h : Inv s) (x : Level) : Inv (tickStep x s) := by
  have hlegal := (Params.legal_iff _).1 h.legal
  cases hs : s.st with
  | startLow =>
    rw [tickStep_startLow x h.legal hs]
    have hhs : inHandshake s.st := .inl hs
    refine h.driveTick hhs (by omega) (by simp [counterOk, hs]) (h.advance (.inl ⟨hhs, .inl (.inr (.inl rfl))⟩) ?_)
    simp [counterOk]; omega
  | startHigh =>
    rw [tickStep_startHigh x h.legal hs]
    have hhs : inHandshake s.st := .inr (.inl hs)
    exact h.driveTick hhs (by omega) (by simp [counterOk, hs])
      (h.advance (.inl ⟨hhs, .inl (.inr (.inr (.inl rfl)))⟩) (Nat.zero_le _))
  | awaitAck =>
    rw [tickStep_awaitAck x hs]
    have hhs : inHandshake s.st := .inr (.inr (.inl hs))
    exact h.waitTick _ (.inl hhs) (by omega) (by simp [counterOk, hs])
      (h.advance (.inl ⟨hhs, .inl (.inr (.inr (.inr rfl)))⟩) (Nat.zero_le _))
  | ackLow =>
    rw [tickStep_ackLow x hs]
    have hhs : inHandshake s.st := .inr (.inr (.inr hs))
    exact h.waitTick _ (.inl hhs) (by omega) (by simp [counterOk, hs])
      (h.advance (.inl ⟨hhs, .inr (.inl rfl)⟩) (Nat.zero_le _))
  | bitLow =>
    rw [tickStep_bitLow x hs]
    have hcap : inCapture s.st := .inl hs
    exact h.waitTick _ (.inr hcap) (bitLowTimeout_le _ h.legal) (by simp [counterOk, hs])
      (h.advance (.inr ⟨hcap, .inr (.inl rfl)⟩) (Nat.zero_le _))
  | bitHigh =>
    rw [tickStep_bitHigh x hs]
    have hcap : inCapture s.st := .inr (.inl hs)
    refine h.waitTick _ (.inr hcap) (by omega) (by simp [counterOk, hs])
      (h.advance (.inr ⟨hcap, .inr (.inr rfl)⟩) ?_)
    simp [counterOk]; omega
  | bitMeas => exact h.measureTick hs x
  | check => rw [tickStep_check x hs]; exact h.check hs
  | idle => rwa [tickStep_quiet x (by simp [hs, isBusy])]
  | done => rwa [tickStep_quiet x (by simp [hs, isBusy])]
  | failed => rwa [tickStep_quiet x (by simp [hs, isBusy])]
  | illegal k => rwa [tickStep_quiet x (by simp [hs, isBusy])]

theorem Inv.legalCode {s : State} (h : Inv s) : isIllegal s.st = false := by
  have hcounter := h.counter
  cases hs : s.st <;> simp [counterOk, hs, isIllegal] at hcounter ⊢

/-- Settles O49: a reset and an acceptance establish the invariant, a tick keeps it, and in every other cycle the
sequencer holds and the prescaler stays below CLK_PER_US. -/
theorem invariantIsKept : Obligations.InvariantIsKept := by
  intro s t h hstep
  cases hr : (portOf s).rst
  · obtain ⟨hcfg, hpresc⟩ := step_prescaler hstep hr h.legalCode
    have hlt : t.presc < t.cfg.clkPerUs := by rw [hcfg, hpresc]; exact prescNext_lt _ h.presc
    rcases step_sequencer hstep hr with ⟨_, hsame⟩ | ⟨_, hi, _⟩ | ⟨_, _, _, hsame⟩ | ⟨_, _, _, hsame⟩
    · exact (inv_acceptRead h.legal).of_same hsame hlt
    · simp [h.legalCode] at hi
    · exact (h.tick _).of_same hsame hlt
    · exact h.of_same hsame hlt
  · rcases step_next hstep with ⟨_, rfl⟩ | ⟨_, hrst, _⟩
    · exact inv_resetEdge _ h.legal
    · simp [hr] at hrst

/-- Settles O48: a machine right after reset has idle registers, whatever its legal parameters. -/
theorem invariantHoldsAtReset : Obligations.InvariantHoldsAtReset := by
  refine ⟨inv_afterReset (by decide), fun p hp => ⟨State.afterReset p, ?_, inv_afterReset hp, rfl⟩⟩
  simp [State.elaborate, hp]

/-- Settles O1: the reset state is one closed value, so every register and every view of it is computed. -/
theorem resetStateHasTheSpecsValues : Obligations.ResetStateHasTheSpecsValues := by
  unfold Obligations.ResetStateHasTheSpecsValues
  decide

end Sys2Proof.Machine
end

section
/-! Runs of the machine, and the seven items of 10_state.md R44 from the invariant. -/

namespace Sys2Proof.Machine

/-- A run of `n + 1` steps is a step and a run of `n`. -/
theorem run_succ {s t : State} (n : Nat) (h : step s = .next t) :
    Host.Core.run core (n + 1) s = Host.Core.run core n t := by
  have hcore : core.step s = .next t := h
  simp [Host.Core.run, hcore]

theorem run_succ_next {s u : State} {n : Nat} (h : Host.Core.run core (n + 1) s = .next u) :
    ∃ t, step s = .next t ∧ Host.Core.run core n t = .next u := by
  cases hstep : step s with
  | next t => exact ⟨t, rfl, by rwa [run_succ n hstep] at h⟩
  | fault f => exact nomatch f
  | refused why =>
    have hcore : core.step s = .refused why := hstep
    simp [Host.Core.run, hcore] at h

/-- What every step keeps, every run keeps. -/
theorem run_keeps {P : State → Prop} (hstep : ∀ s t, P s → step s = .next t → P t) :
    ∀ {n : Nat} {s t : State}, P s → Host.Core.run core n s = .next t → P t := by
  intro n
  induction n with
  | zero => intro s t hs hrun; cases hrun; exact hs
  | succ n ih =>
    intro s t hs hrun
    obtain ⟨u, hsu, hut⟩ := run_succ_next hrun
    exact ih (hstep s u hs hsu) hut

/-- Item 7 of R44: every bound of `counterOk` is one of the five. -/
theorem Inv.counter_le {s : State} (h : Inv s) :
    s.tcnt.toNat ≤ max s.cfg.tStartLow (max s.cfg.tAckTo (max s.cfg.tBit0LowTo (max s.cfg.tBitTo s.cfg.tCap))) := by
  have hlegal := (Params.legal_iff _).1 h.legal
  have hcounter := h.counter
  cases hs : s.st <;> simp only [counterOk, hs, bitLowTimeout] at hcounter
  case bitLow => split at hcounter <;> omega
  case startLow | startHigh | awaitAck | ackLow | bitHigh | bitMeas => omega
  all_goals simp [hcounter]

/-- Item 1 of R44, second half: before CHECK at most 39 bits are in. -/
theorem Inv.full_bidx {s : State} (h : Inv s) (hb : s.bidx = 40#6) :
    s.st = .check ∨ s.st = .done ∨ s.st = .failed := by
  have hstart : ¬ (s.st = .idle ∨ inHandshake s.st) := fun hs => by
    have hzero := (h.start hs).1
    simp [hb] at hzero
  have hcapture : ¬ inCapture s.st := fun hs => by
    have hle := (h.capture hs).1
    simp [hb] at hle
  have hlegal := h.legalCode
  cases hs : s.st <;> simp [hs, inHandshake, inCapture, isIllegal] at hstart hcapture hlegal ⊢

/-- The invariant says which outcome a state has: DONE has SUCCESS, FAILED a failure, every other state NONE. -/
theorem Inv.outcome_cases {s : State} (h : Inv s) :
    (s.st = .done ∧ s.outcome = .success) ∨ (s.st = .failed ∧ ∃ kind, s.outcome = failureTag kind) ∨
      (s.st ≠ .done ∧ s.st ≠ .failed ∧ s.outcome = .none) := by
  have hout := h.outcome
  cases hs : s.st <;> simp only [outcomeOk, hs] at hout
  case done => exact .inl ⟨rfl, hout⟩
  case failed => exact .inr (.inl ⟨rfl, hout⟩)
  all_goals exact .inr (.inr ⟨by simp, by simp, hout⟩)

theorem Inv.reachableFacts {s : State} (h : Inv s) : ReachableFacts s where
  item1a := h.bidxLe
  item1b := fun hs => h.full (.inl hs)
  item1c := h.full_bidx
  item2 := fun hs => by
    obtain ⟨hbidx, hshreg⟩ := h.capture hs
    refine ⟨hbidx, fun k hk _ => Nat.testBit_lt_two_pow ?_⟩
    exact hshreg.trans_le (Nat.pow_le_pow_right (by decide) hk)
  item3 := by
    rcases h.outcome_cases with ⟨hs, ho⟩ | ⟨hs, kind, ho⟩ | ⟨hd, hf, ho⟩
    · simp [hs, ho]
    · cases kind <;> simp [hs, ho, failureTag]
    · simp [hd, hf, ho]
  item4 := fun hne => by
    rcases h.outcome_cases with ⟨_, ho⟩ | ⟨hs, _⟩ | ⟨hd, _⟩
    · exact absurd ho hne
    · exact h.noResult (by simp [hs])
    · exact h.noResult hd
  item5a := by
    rcases h.outcome_cases with ⟨hs, ho⟩ | ⟨hs, kind, ho⟩ | ⟨hd, _, ho⟩
    · simp [hs, ho]
    · cases kind <;> simp [hs, ho, failureTag]
    · simp [hd, ho]
  item5b := by
    rcases h.outcome_cases with ⟨hs, ho⟩ | ⟨hs, kind, ho⟩ | ⟨_, hf, ho⟩
    · simp [hs, ho]
    · cases kind <;> simp [hs, ho, failureTag]
    · simp [hf, ho]
  item6 := h.legalCode
  item7 := h.counter_le

/-- Settles O50: the invariant holds at reset and along every run, and R44's items follow from it. -/
theorem reachableStatesMeetTheirInvariants : Obligations.ReachableStatesMeetTheirInvariants :=
  ⟨fun _ h => h.reachableFacts,
    fun _ _ hrun => (run_keeps invariantIsKept invariantHoldsAtReset.1 hrun).reachableFacts⟩

end Sys2Proof.Machine
end

section
/-! The free-running parts of the block: the prescaler (10_state.md R37) and the synchroniser (R38). -/

namespace Sys2Proof.Machine

/-- No reset and no acceptance in any of the first `n` cycles of a run from `s`. -/
def Undisturbed (n : Nat) (s : State) : Prop :=
  ∀ m v, m < n → Host.Core.run core m s = .next v →
    (portOf v).rst = false ∧ ¬ ((portOf v).start = true ∧ acceptsRead v.st = true)

theorem Undisturbed.head {n : Nat} {s : State} (h : Undisturbed (n + 1) s) :
    (portOf s).rst = false ∧ accepts (portOf s).start s = false := by
  obtain ⟨hrst, hacc⟩ := h 0 s (Nat.succ_pos n) rfl
  exact ⟨hrst, accepts_eq_false hacc⟩

theorem Undisturbed.tail {n : Nat} {s t : State} (h : Undisturbed (n + 1) s) (hstep : step s = .next t) :
    Undisturbed n t :=
  fun m v hm hrun => h (m + 1) v (Nat.succ_lt_succ hm) (by rwa [run_succ m hstep])

/-- From wherever it stands, the prescaler counts the cycles modulo CLK_PER_US. -/
theorem run_presc {n : Nat} {s t : State} (hlt : s.presc < s.cfg.clkPerUs) (hi : isIllegal s.st = false)
    (hquiet : Undisturbed n s) (hrun : Host.Core.run core n s = .next t) :
    t.cfg = s.cfg ∧ t.presc = (s.presc + n) % s.cfg.clkPerUs := by
  induction n generalizing s with
  | zero => cases hrun; exact ⟨rfl, (Nat.mod_eq_of_lt hlt).symm⟩
  | succ n ih =>
    obtain ⟨u, hstep, hrun⟩ := run_succ_next hrun
    obtain ⟨hrst, hacc⟩ := hquiet.head
    obtain ⟨hcfg, hpresc⟩ := step_prescaler hstep hrst hi
    have hu : u.presc = (s.presc + 1) % s.cfg.clkPerUs := by simp [hpresc, hacc, prescNext_eq _ hlt]
    have hult : u.presc < u.cfg.clkPerUs := by rw [hcfg, hpresc]; exact prescNext_lt _ hlt
    obtain ⟨htcfg, htpresc⟩ := ih hult (step_legal hstep) (hquiet.tail hstep) hrun
    refine ⟨htcfg.trans hcfg, ?_⟩
    rw [htpresc, hcfg, hu, Nat.mod_add_mod, Nat.add_assoc, Nat.add_comm 1 n]

/-- Settles O46: after `n` cycles from 0 the prescaler stands at `n` mod CLK_PER_US, and it stands at CLK_PER_US - 1
exactly when one more cycle makes a multiple. -/
theorem ticksComeEveryClkPerUsCycles : Obligations.TicksComeEveryClkPerUsCycles := by
  intro n s t hl hzero hi hquiet hrun
  have hpos : 1 ≤ s.cfg.clkPerUs := ((Params.legal_iff _).1 hl).1
  obtain ⟨hcfg, hpresc⟩ := run_presc (by omega) hi hquiet hrun
  rw [hzero, Nat.zero_add] at hpresc
  refine ⟨hpresc, ?_⟩
  rw [isTick_iff, hcfg, hpresc]
  obtain ⟨c, hc⟩ : ∃ c, s.cfg.clkPerUs = c + 1 := ⟨s.cfg.clkPerUs - 1, by omega⟩
  rw [hc, Nat.add_sub_cancel]
  exact Nat.succ_mod_succ_eq_zero_iff.symm

/-- A step without reset from a legal state code moves the synchroniser on by one stage (10_state.md R38). -/
theorem step_synchroniser {s t : State} (h : step s = .next t) (hr : (portOf s).rst = false)
    (hi : isIllegal s.st = false) :
    ∃ cmd, currentCommand s = .ok cmd ∧ t.sync1 = lineLevel cmd (portOf s).line ∧ t.sync2 = s.sync1 := by
  rcases step_next h with ⟨hrst, _⟩ | ⟨cmd, _, hcmd, rfl⟩
  · simp [hr] at hrst
  · exact ⟨cmd, hcmd, (clockEdge_goes_on hi).2⟩

/-- The pad outputs are those of the state's command (40_line_transport.md R111). -/
theorem pads_of_command {s : State} {cmd : Instr} (h : currentCommand s = .ok cmd) :
    lineOe s = padEnable cmd ∧ lineOut s = padOut cmd := by
  simp [lineOe, lineOut, h]

/-- Settles O47: the first step puts the line's level into the first stage, the second step moves it into the second. -/
theorem sampleIsTwoCyclesOld : Obligations.SampleIsTwoCyclesOld := by
  intro s t u hst htu hrs hrt hi
  obtain ⟨cmd, hcmd, hfirst, _⟩ := step_synchroniser hst hrs hi
  obtain ⟨_, _, _, hsecond⟩ := step_synchroniser htu hrt (step_legal hst)
  have hsample : u.sync2 = lineLevel cmd (portOf s).line := hsecond.trans hfirst
  obtain ⟨hoe, hout⟩ := pads_of_command hcmd
  constructor
  · intro level hline
    rw [hsample, hline, hoe, hout, lineLevel]
  · intro level hline
    rw [hsample, hline, lineLevel]

end Sys2Proof.Machine
end

section
/-! The register read port (20_memory.md): `rsel` selects what `rdata` shows and reaches no register (R61). -/

namespace Sys2Proof.Machine

/-- A reset edge depends on `rsel` in the sampled `rdata` only. -/
theorem resetEdge_rsel (a b : BitVec 2) (s : State) :
    { resetEdge a s with rdata := regView s b } = resetEdge b s := rfl

/-- A clock edge depends on `rsel` in the sampled `rdata` only. -/
theorem clockEdge_rsel (start : Bool) (a b : BitVec 2) (cmd : Instr) (s : State) :
    { clockEdge start a cmd s with rdata := regView s b } = clockEdge start b cmd s := rfl

/-- Settles O9: both host words run the same cycle but for `rsel`. Whether it is a reset edge, a clock edge or a refusal
does not depend on `rsel`, and neither edge lets it reach more than `rdata`. -/
theorem registerSelectChangesNoRegister : Obligations.RegisterSelectChangesNoRegister := by
  intro s start a b
  rw [exec_hostFields, exec_hostFields]
  rcases clockCycle_cases start a (currentCommand s) s with
    ⟨hrst, hcycle⟩ | ⟨cmd, hrst, hcmd, hcycle⟩ | ⟨why, hrst, hcmd, hcycle⟩
  · exact .inl ⟨_, _, hcycle, clockCycle_reset hrst, resetEdge_rdata a s, resetEdge_rdata b s, resetEdge_rsel a b s⟩
  · have hcycle_b : clockCycle start b (currentCommand s) s = .next (clockEdge start b cmd s) := by
      rw [hcmd, clockCycle_ok hrst]
    exact .inl ⟨_, _, hcycle, hcycle_b, clockEdge_rdata start a cmd s, clockEdge_rdata start b cmd s,
      clockEdge_rsel start a b cmd s⟩
  · have hcycle_b : clockCycle start b (currentCommand s) s = .refused (.reservedLtuWord why) := by
      rw [hcmd, clockCycle_error hrst]
    exact .inr ⟨_, hcycle, hcycle_b⟩

end Sys2Proof.Machine
end

section
/-! The two directions of the encoding (30_encoding.md R86, R87, R90, R91). Both go through the word: the bytes of a word
decode exactly to what the word decodes to, and an instruction's bytes are those of the one word that decodes to it. -/

namespace Sys2Proof

/-! ### Words and instructions -/

/-- The four values of the `op` field (30_encoding.md R87). -/
theorem op_cases (op : BitVec 2) : op = 0#2 ∨ op = 1#2 ∨ op = 2#2 ∨ op = 3#2 := by revert op; decide

/-- Every LTU word with a meaning is one of the six commands' words (30_encoding.md R87 less R90). -/
theorem decodeLtu_cases {w : LtuWord} {i : Instr} (h : decodeLtu w = .ok i) :
    (w = ltuFields 0#2 false 0#16 ∧ i = .release) ∨
      (∃ d, w = ltuFields 1#2 false d ∧ i = .driveLow d) ∨ (∃ d, w = ltuFields 1#2 true d ∧ i = .driveHigh d) ∨
      (∃ t, w = ltuFields 2#2 false t ∧ i = .waitLow t) ∨ (∃ t, w = ltuFields 2#2 true t ∧ i = .waitHigh t) ∨
      (∃ c, w = ltuFields 3#2 true c ∧ i = .measureHigh c) := by
  rw [← ltuFields_eta w] at h ⊢
  generalize w.extractLsb' 17 2 = op at h ⊢
  generalize w.getLsbD 16 = lvl at h ⊢
  generalize w.extractLsb' 0 16 = arg at h ⊢
  rw [decodeLtu_fields] at h
  rcases op_cases op with rfl | rfl | rfl | rfl
  · have hzero : lvl = false ∧ arg = 0#16 := by by_contra hne; simp [hne] at h
    obtain ⟨rfl, rfl⟩ := hzero
    cases h; exact .inl ⟨rfl, rfl⟩
  · have hd : arg ≠ 0#16 := by rintro rfl; simp at h
    cases lvl <;> simp [hd] at h <;> simp [← h]
  · cases lvl <;> simp at h <;> simp [← h]
  · cases lvl
    · simp at h
    · have hc : ¬ arg.toNat < 2 := by intro hlt; simp [hlt] at h
      simp [hc] at h; simp [← h]

/-- A well-formed LTU command is encoded by a word that decodes to it. -/
theorem encode_ltu {i : Instr} (hf : i.format = .ltu) (hwf : i.wf = true) :
    ∃ w, encode i = ltuBytes w ∧ decodeLtu w = .ok i := by
  cases i with
  | read | rdStatus | rdReading | rdFrame0 | rdFrame1 => simp [Instr.format] at hf
  | release => exact ⟨_, rfl, by rw [decodeLtu_fields]; rfl⟩
  | driveLow d | driveHigh d =>
    have hd : d ≠ 0#16 := by simpa [Instr.wf] using hwf
    exact ⟨_, rfl, by rw [decodeLtu_fields]; simp [hd]⟩
  | waitLow t | waitHigh t => exact ⟨_, rfl, by rw [decodeLtu_fields]; rfl⟩
  | measureHigh c =>
    have hc : ¬ c.toNat < 2 := Nat.not_lt.2 (of_decide_eq_true hwf)
    exact ⟨_, rfl, by rw [decodeLtu_fields]; simp [hc]⟩

/-- A host instruction is encoded by a word that decodes to it. -/
theorem encode_host {i : Instr} (hf : i.format = .host) : ∃ w, encode i = hostBytes w ∧ decodeHost w = i := by
  cases i with
  | read rsel => exact ⟨_, rfl, by rw [decodeHost_fields]; rfl⟩
  | rdStatus | rdReading | rdFrame0 | rdFrame1 => exact ⟨_, rfl, by rw [decodeHost_fields]; rfl⟩
  | release | driveLow | driveHigh | waitLow | waitHigh | measureHigh => simp [Instr.format] at hf

theorem encode_decodeLtu {w : LtuWord} {i : Instr} (h : decodeLtu w = .ok i) : encode i = ltuBytes w := by
  rcases decodeLtu_cases h with ⟨rfl, rfl⟩ | ⟨_, rfl, rfl⟩ | ⟨_, rfl, rfl⟩ | ⟨_, rfl, rfl⟩ | ⟨_, rfl, rfl⟩ | ⟨_, rfl, rfl⟩ <;>
    rfl

/-- No host word is reserved (30_encoding.md R91): all eight decode to a host instruction with the same bytes. -/
theorem decodeHost_facts (w : HostWord) :
    (decodeHost w).wf = true ∧ (decodeHost w).format = .host ∧ encode (decodeHost w) = hostBytes w := by
  revert w; decide

/-! ### Words and bytes -/

theorem hostBytes_of_byte {b : Byte} (h : b.extractLsb' 3 5 = 0#5) : hostBytes (b.extractLsb' 0 3) = [b] := by
  rw [hostBytes, ← h]
  exact congrArg (fun x => [x]) (cat_eta b rfl)

/-- Three bytes without a stray bit are the bytes of the word the decoder puts together. -/
theorem ltuBytes_of_bytes {b0 b1 b2 : Byte} (h : b2.extractLsb' 3 5 = 0#5) :
    ltuBytes (cat 19 (cat 11 (b2.extractLsb' 0 3) b1) b0) = [b0, b1, b2] := by
  have hlow : (cat 19 (cat 11 (b2.extractLsb' 0 3) b1) b0).extractLsb' 0 8 = b0 := cat_low _ _ rfl
  have hmid : (cat 19 (cat 11 (b2.extractLsb' 0 3) b1) b0).extractLsb' 8 8 = b1 := by
    rw [extract_cat_high _ _ _ (by decide)]; exact cat_low _ _ rfl
  have htop : (cat 19 (cat 11 (b2.extractLsb' 0 3) b1) b0).extractLsb' 16 3 = b2.extractLsb' 0 3 := by
    rw [extract_cat_high _ _ _ (by decide)]; exact cat_high _ _ rfl
  have hbyte : cat 8 0#5 (b2.extractLsb' 0 3) = b2 := by rw [← h]; exact cat_eta b2 rfl
  rw [ltuBytes, hlow, hmid, htop, hbyte]

/-- Bytes that decode as a host word begin with the byte of that word. -/
theorem decode_host_ok {bytes rest : List Byte} {i : Instr} (h : decode .host bytes = .ok (i, rest)) :
    ∃ w, bytes = hostBytes w ++ rest ∧ decodeHost w = i := by
  cases bytes with
  | nil => simp [decode] at h
  | cons b bs =>
    simp only [decode] at h
    split at h
    · next hb =>
      cases h
      exact ⟨_, by rw [hostBytes_of_byte hb]; rfl, rfl⟩
    · cases h

/-- Bytes that decode as an LTU word begin with the bytes of that word. -/
theorem decode_ltu_ok {bytes rest : List Byte} {i : Instr} (h : decode .ltu bytes = .ok (i, rest)) :
    ∃ w, bytes = ltuBytes w ++ rest ∧ decodeLtu w = .ok i := by
  match bytes with
  | [] | [_] | [_, _] => simp [decode] at h
  | b0 :: b1 :: b2 :: bs =>
    simp only [decode] at h
    split at h
    · next hb =>
      split at h
      · next hw =>
        cases h
        exact ⟨_, by rw [ltuBytes_of_bytes hb]; rfl, hw⟩
      · cases h
    · cases h

/-- Settles O55: an instruction's bytes are those of a word that decodes to it, and the bytes of a word decode to what the
word decodes to. -/
theorem decodeOfEncode : Obligations.DecodeOfEncode := by
  intro i rest hwf
  cases hf : i.format with
  | host =>
    obtain ⟨w, hbytes, hw⟩ := encode_host hf
    rw [hbytes, decode_hostBytes, hw]
  | ltu =>
    obtain ⟨w, hbytes, hw⟩ := encode_ltu hf hwf
    rw [hbytes, decode_ltuBytes, hw]

/-- Settles O56: bytes that decode are those of a word, and what a word decodes to is well-formed and has its bytes. -/
theorem encodeOfDecode : Obligations.EncodeOfDecode := by
  intro f bytes i rest h
  cases f with
  | host =>
    obtain ⟨w, rfl, rfl⟩ := decode_host_ok h
    obtain ⟨hwf, hformat, hbytes⟩ := decodeHost_facts w
    exact ⟨hwf, hformat, by rw [hbytes]⟩
  | ltu =>
    obtain ⟨w, rfl, hw⟩ := decode_ltu_ok h
    obtain ⟨hwf, hformat⟩ := decodeLtu_ok hw
    exact ⟨hwf, hformat, by rw [encode_decodeLtu hw]⟩

/-- Settles O58: each is one closed word, decoded by evaluation. -/
theorem wordsOfTheVectors : Obligations.WordsOfTheVectors := by
  unfold Obligations.WordsOfTheVectors
  decide

end Sys2Proof
end

section
/-! The words of a cycle (30_encoding.md R89 to R91): the command of each sequencer state, the reserved words, and the step
as the run of either word. -/

namespace Sys2Proof.Machine

/-! ### The command of the sequencer state -/

/-- The words R89 prints for the default parameters. -/
theorem commandWord_default (bidx : BitVec 6) (st : SeqState) :
    (st = .startLow → commandWord Params.default bidx st = 0x24E20#19) ∧
    (st = .startHigh → commandWord Params.default bidx st = 0x3001E#19) ∧
    (st = .awaitAck → commandWord Params.default bidx st = 0x40064#19) ∧
    (st = .ackLow → commandWord Params.default bidx st = 0x50064#19) ∧
    (st = .bitLow → bidx = 0#6 → commandWord Params.default bidx st = 0x40064#19) ∧
    (st = .bitLow → bidx ≠ 0#6 → commandWord Params.default bidx st = 0x40046#19) ∧
    (st = .bitHigh → commandWord Params.default bidx st = 0x50046#19) ∧
    (st = .bitMeas → commandWord Params.default bidx st = 0x70078#19) ∧
    (isBusy st = false ∨ st = .check → commandWord Params.default bidx st = 0x00000#19) := by
  refine ⟨?_, ?_, ?_, ?_, ?_, ?_, ?_, ?_, ?_⟩
  case refine_6 =>
    rintro rfl hb
    rw [commandWord, bitLowTimeout, if_neg hb]; rfl
  case refine_9 => cases st <;> simp [isBusy] <;> rfl
  all_goals rintro rfl
  case refine_5 => rintro rfl; rfl
  all_goals rfl

/-- Settles O28: state by state, R89's row with the operand in its range; the default words are evaluated. -/
theorem commandTable : Obligations.CommandTable := by
  intro s hl
  refine ⟨?_, fun hcfg => hcfg ▸ commandWord_default s.bidx s.st⟩
  cases hs : s.st with
  | startLow => exact currentCommand_startLow hl hs
  | startHigh => exact currentCommand_startHigh hl hs
  | awaitAck => exact currentCommand_awaitAck hs
  | ackLow => exact currentCommand_ackLow hs
  | bitLow => exact currentCommand_bitLow hs
  | bitHigh => exact currentCommand_bitHigh hs
  | bitMeas => exact currentCommand_bitMeas hl hs
  | check => exact currentCommand_release (.inr hs)
  | idle | done | failed | illegal => exact currentCommand_release (.inl (by rw [hs]; rfl))

/-! ### Reserved words -/

/-- Settles O57: of the four values of `op`, 00 admits one word, 01 asks for an operand, 10 reserves none, and 11 asks for
`lvl` = 1 and a ceiling of at least 2; with legal parameters every state has R89's command. -/
theorem reservedLtuWords : Obligations.ReservedLtuWords := by
  refine ⟨fun op lvl arg why => ?_, fun s hl => ⟨_, (commandTable s hl).1⟩⟩
  rw [decodeLtu_fields]
  rcases op_cases op with rfl | rfl | rfl | rfl
  · cases lvl <;> by_cases harg : arg = 0#16 <;> simp [harg, @eq_comm _ why]
  · by_cases harg : arg = 0#16 <;> simp [harg, @eq_comm _ why]
  · simp
  · cases lvl
    · simp [@eq_comm _ why]
    · by_cases harg : arg.toNat < 2 <;> simp [harg, @eq_comm _ why]

/-- A command that R90 reserves is refused by its name in every cycle without reset. -/
theorem exec_reserved {i : Instr} {why : DecodeError} {s : State} (hf : i.format = .ltu) (hi : i.checked = .error why)
    (hr : (portOf s).rst = false) : exec i s = .refused (.reservedLtuWord why) := by
  rw [exec_ltu hf, hi, clockCycle_error hr]

/-- Settles O22: the three operands fail the check of R90, each by its own name. -/
theorem reservedOperandsAreRefused : Obligations.ReservedOperandsAreRefused := by
  intro s hr
  exact ⟨exec_reserved rfl rfl hr, exec_reserved rfl rfl hr, fun c hc => exec_reserved rfl (if_pos hc) hr⟩

/-! ### The step runs both words of its cycle -/

/-- Settles O43: the byte of the host word decodes to what the ports' fields decode to, and that is what a step runs. -/
theorem stepRunsTheHostWord : Obligations.StepRunsTheHostWord := by
  intro s i rest h
  have hdecode := decode_hostBytes (hostFields (portOf s).start (portOf s).rsel) []
  rw [List.append_nil, h] at hdecode
  cases hdecode
  rfl

/-- A step is the run of the LTU command of its sequencer state. -/
theorem step_eq_exec_of_command {s : State} {i : Instr} (h : currentCommand s = .ok i) : step s = exec i s := by
  obtain ⟨hwf, hformat⟩ := decodeLtu_ok h
  rw [step_eq, h, exec_ltu hformat, Instr.checked_of_wf hwf]

/-- Settles O44: the bytes of the state's word decode to its current command, or are refused as that is. -/
theorem stepRunsTheLtuCommand : Obligations.StepRunsTheLtuCommand := by
  intro s
  have hdecode := decode_ltuBytes (commandWord s.cfg s.bidx s.st) []
  rw [List.append_nil] at hdecode
  rw [hdecode]
  constructor
  · intro i rest h
    split at h
    · next hcmd => cases h; exact step_eq_exec_of_command hcmd
    · cases h
  · intro why h hr
    split at h
    · cases h
    · next hcmd =>
      cases h
      rw [step_eq, currentCommand, hcmd, clockCycle_error hr]

end Sys2Proof.Machine
end

section
/-! A word placed for the next step (log entry 4): what each placement leaves at the ports and in the sequencer. -/

namespace Sys2Proof.Machine

open Sys2Proof.Laws.MatchesTable (wordNumber wordNumber_ltuBytes)

/-! ### The word of an opcode-table number -/

theorem wordNumber_hostBytes (w : HostWord) : wordNumber (hostBytes w) = w.toNat := by revert w; decide

theorem wordNumber_bytesOfNat {nbits : Nat} (w : Nat) (h : nbits = 8 ∨ nbits = 24) :
    wordNumber (bytesOfNat nbits w) = w % 2 ^ nbits := by
  rcases h with rfl | rfl
  · simp [bytesOfNat, formatOfBits, wordNumber]
  · simp [bytesOfNat, formatOfBits, wordNumber]; omega

theorem decodeTableWord_some {nbits w : Nat} {i : Instr} (h : decodeTableWord nbits w = some i) :
    ∃ rest, decode (formatOfBits nbits) (bytesOfNat nbits w) = .ok (i, rest) := by
  unfold decodeTableWord at h
  split at h
  · next hdecode => cases h; exact ⟨_, hdecode⟩
  · cases h

/-- An 8-bit table word that decodes is a host word. -/
theorem decodeHost_of_tableWord {w : Nat} {i : Instr} (h : decodeTableWord 8 w = some i) :
    decodeHost (BitVec.ofNat 3 (w % 2 ^ 8)) = i := by
  obtain ⟨rest, hdecode⟩ := decodeTableWord_some h
  obtain ⟨v, hbytes, hv⟩ := decode_host_ok hdecode
  have hall : bytesOfNat 8 w = hostBytes v := List.append_inj_left ((List.append_nil _).trans hbytes) rfl
  have hnum : w % 2 ^ 8 = v.toNat := by
    rw [← wordNumber_bytesOfNat w (.inl rfl), hall, wordNumber_hostBytes]
  rw [hnum, BitVec.ofNat_toNat, BitVec.setWidth_eq, hv]

/-- A 24-bit table word that decodes is an LTU word. -/
theorem decodeLtu_of_tableWord {w : Nat} {i : Instr} (h : decodeTableWord 24 w = some i) :
    decodeLtu (BitVec.ofNat 19 (w % 2 ^ 24)) = .ok i := by
  obtain ⟨rest, hdecode⟩ := decodeTableWord_some h
  obtain ⟨v, hbytes, hv⟩ := decode_ltu_ok hdecode
  have hall : bytesOfNat 24 w = ltuBytes v := List.append_inj_left ((List.append_nil _).trans hbytes) rfl
  have hnum : w % 2 ^ 24 = v.toNat := by
    rw [← wordNumber_bytesOfNat w (.inr rfl), hall, wordNumber_ltuBytes]
  rw [hnum, BitVec.ofNat_toNat, BitVec.setWidth_eq, hv]

/-! ### Placing -/

theorem definitePort_rst (s : State) : (definitePort s).rst = false := by
  unfold definitePort; split <;> rfl

/-- A placed host word is the one the step takes from the ports. -/
theorem fetchHost_placeHost (w : HostWord) (s : State) : fetchHost (placeHost w s) = decodeHost w :=
  congrArg decodeHost (hostFields_eta w)

/-- A word with a meaning is placed as the command of a sequencer state. -/
theorem placeLtu_of_decode {w : LtuWord} {i : Instr} (h : decodeLtu w = .ok i) (s : State) :
    ∃ st cfg, placeLtu w s = placeCommand st cfg s ∧ commandWord cfg s.bidx st = w := by
  rcases decodeLtu_cases h with ⟨rfl, rfl⟩ | ⟨d, rfl, rfl⟩ | ⟨d, rfl, rfl⟩ | ⟨t, rfl, rfl⟩ | ⟨t, rfl, rfl⟩ | ⟨c, rfl, rfl⟩ <;>
    simp only [placeLtu, ltuFields_op, ltuFields_lvl, ltuFields_arg]
  all_goals refine ⟨_, _, rfl, ?_⟩
  all_goals simp [commandWord, tickArg]

/-- A step that runs `i` without reset, in a state with a command, completes. -/
theorem runs_of_step {u : State} {i cmd : Instr} (hstep : step u = exec i u) (hr : (portOf u).rst = false)
    (hcmd : currentCommand u = .ok cmd) : step u = exec i u ∧ ∃ t, exec i u = .next t :=
  ⟨hstep, _, hstep.symm.trans (by rw [step_eq, hcmd, clockCycle_ok hr])⟩

/-- Settles O59: a placed host word is at the ports of a cycle with the state's old command; a placed LTU word is the
command of the sequencer state. -/
theorem placedWordRuns : Obligations.PlacedWordRuns := by
  intro s i cmd nbits w hn hcmd hword
  rcases hn with rfl | rfl
  · refine runs_of_step (u := placeHost _ s) ?_ (definitePort_rst s) hcmd
    rw [step, fetchHost_placeHost, decodeHost_of_tableWord hword]
  · have hdecode := decodeLtu_of_tableWord hword
    obtain ⟨st, cfg, hplace, hw⟩ := placeLtu_of_decode hdecode s
    have hfetch : s.withFetchWord 24 w = placeCommand st cfg s := hplace
    have hplaced : currentCommand (placeCommand st cfg s) = .ok i := (congrArg decodeLtu hw).trans hdecode
    rw [hfetch]
    exact runs_of_step (step_eq_exec_of_command hplaced) (definitePort_rst s) hplaced

end Sys2Proof.Machine
end

section
/-! Codes that nothing writes (30_encoding.md R81, R83): admission refuses them, no step makes one, and a step from an
illegal state code recovers. -/

namespace Sys2Proof.Machine

theorem isIllegal_eq_false_iff (st : SeqState) : isIllegal st = false ↔ ∀ k, st ≠ .illegal k := by
  cases st <;> simp [isIllegal]

theorem isReservedOutcome_eq_false_iff (o : OutcomeTag) : isReservedOutcome o = false ↔ ∀ k, o ≠ .reserved k := by
  cases o <;> simp [isReservedOutcome]

/-- Admission, by what is wrong with the state (93_implementation_defined.md I3, I5, I6). -/
theorem takeIn_ok_iff (s : State) :
    s.takeIn = .ok s ↔ s.cfg.legal = true ∧ isIllegal s.st = false ∧ isReservedOutcome s.outcome = false := by
  unfold State.takeIn
  cases s.cfg.legal <;> cases isIllegal s.st <;> cases isReservedOutcome s.outcome <;> simp

theorem takeIn_illegalParameters {s : State} (h : s.cfg.legal = false) : s.takeIn = .error .illegalParameters :=
  if_pos h

theorem takeIn_illegalStateCode {s : State} (hl : s.cfg.legal = true) (hi : isIllegal s.st = true) :
    s.takeIn = .error .illegalStateCode := by
  simp [State.takeIn, hl, hi]

theorem takeIn_reservedOutcomeCode {s : State} (hl : s.cfg.legal = true) (hi : isIllegal s.st = false)
    (ho : isReservedOutcome s.outcome = true) : s.takeIn = .error .reservedOutcomeCode := by
  simp [State.takeIn, hl, hi, ho]

/-- A tick keeps the outcome or records one of R82's. -/
theorem seqTick_outcome (r : LtuResult) (s : State) :
    (seqTick r s).outcome = s.outcome ∨ (seqTick r s).outcome = .success ∨
      ∃ kind, (seqTick r s).outcome = failureTag kind := by
  unfold seqTick
  cases s.st
  case check =>
    simp only [phaseCheck]
    split
    · exact .inr (.inl rfl)
    · exact .inr (.inr ⟨.checksumMismatch, rfl⟩)
  all_goals
    cases r <;> simp [phaseStartLow, phaseStartHigh, phaseAwaitAck, phaseAckLow, phaseBitLow, phaseBitHigh, phaseBitMeas]

/-- No tick writes a reserved outcome code (30_encoding.md R83). -/
theorem seqTick_reserved {r : LtuResult} {s : State} {k : Fin 3} (h : (seqTick r s).outcome = .reserved k) :
    s.outcome = .reserved k := by
  rcases seqTick_outcome r s with ho | ho | ⟨kind, ho⟩ <;> rw [ho] at h
  · exact h
  · cases h
  · cases kind <;> cases h

theorem step_reserved {s t : State} {k : Fin 3} (hstep : step s = .next t) (ht : t.outcome = .reserved k) :
    s.outcome = .reserved k := by
  rcases step_next hstep with ⟨_, rfl⟩ | ⟨cmd, _, _, rfl⟩
  · cases ht
  · rw [clockEdge_outcome, sequencerEdge] at ht
    split at ht
    · cases ht
    · split at ht
      · exact ht
      · split at ht
        · exact seqTick_reserved ht
        · exact ht

theorem Inv.outcome_not_reserved {s : State} (h : Inv s) : isReservedOutcome s.outcome = false := by
  rcases h.outcome_cases with ⟨_, ho⟩ | ⟨_, kind, ho⟩ | ⟨_, _, ho⟩ <;> rw [ho]
  · rfl
  · cases kind <;> rfl
  · rfl

/-- Settles O14: admission is the three tests in turn, the invariant passes each, and a step writes only outcomes of R82. -/
theorem admissionRefusesUnreachableCodes : Obligations.AdmissionRefusesUnreachableCodes := by
  refine ⟨fun s => ?_, fun s hl hst k ho => ?_, fun s hl => takeIn_illegalParameters hl, fun s h => ?_,
    fun s t k => step_reserved⟩
  · rw [takeIn_ok_iff, isIllegal_eq_false_iff, isReservedOutcome_eq_false_iff]
  · exact takeIn_reservedOutcomeCode hl ((isIllegal_eq_false_iff _).2 hst) (by rw [ho]; rfl)
  · exact (takeIn_ok_iff s).2 ⟨h.legal, h.legalCode, h.outcome_not_reserved⟩

/-- Settles O13: the flags and the command follow from the code; the edge without reset is the recovery and holds the rest;
and no step leads to such a code. -/
theorem illegalStateRecoversToIdle : Obligations.IllegalStateRecoversToIdle := by
  refine ⟨fun s k hs => ?_, fun s t => step_legal⟩
  have hbusy : isBusy s.st = false := by rw [hs]; rfl
  have hillegal : isIllegal s.st = true := by rw [hs]; rfl
  have hcmd : currentCommand s = .ok .release := currentCommand_release (.inl hbusy)
  have hacc : ∀ start, accepts start s = false := fun start => accepts_of_not (by rw [hs]; rfl)
  refine ⟨hbusy, by rw [doneFlag, hs]; rfl, (pads_of_command hcmd).1, hcmd, hacc, fun hr => ?_,
    fun hl => takeIn_illegalStateCode hl hillegal⟩
  have hstep : step s = .next (clockEdge (portOf s).start (portOf s).rsel .release s) := by
    rw [step_eq, hcmd, clockCycle_ok hr]
  have hframe := clockEdge_frame (portOf s).start (portOf s).rsel .release s
  rw [hacc] at hframe
  rw [clockEdge_illegal hillegal] at hstep hframe
  exact ⟨_, hstep, ⟨rfl, rfl, rfl, rfl, rfl, rfl, rfl⟩, rfl, rfl, rfl, hframe⟩

end Sys2Proof.Machine
end

section
/-! One clock cycle of an LTU command (40_line_transport.md R110, R112): it completes, it acts in a tick of a busy state
through the rule of that state, and elsewhere the sequencer holds. -/

namespace Sys2Proof.Machine

/-! ### The cycle of a command -/

/-- The check of R90 passes a command on as it is. -/
theorem eq_of_checked {i cmd : Instr} (h : i.checked = .ok cmd) : cmd = i := by
  cases i <;> simp only [Instr.checked] at h
  case driveLow | driveHigh | measureHigh => split at h <;> cases h; rfl
  all_goals cases h; rfl

/-- A command that R90 does not reserve completes in every cycle without reset. -/
theorem exec_ltu_next {i : Instr} {s : State} (hf : i.format = .ltu) (hwf : i.wf = true) (hr : (portOf s).rst = false) :
    exec i s = .next (clockEdge (portOf s).start (portOf s).rsel i s) := by
  rw [exec_ltu hf, Instr.checked_of_wf hwf, clockCycle_ok hr]

/-- A command that completes without reset does so by the clock edge with that command. -/
theorem clockEdge_of_exec_ltu {i : Instr} {s t : State} (hf : i.format = .ltu) (h : exec i s = .next t)
    (hr : (portOf s).rst = false) : t = clockEdge (portOf s).start (portOf s).rsel i s := by
  rw [exec_ltu hf] at h
  rcases clockCycle_cases (portOf s).start (portOf s).rsel i.checked s with
    ⟨hrst, _⟩ | ⟨cmd, _, hcmd, hcycle⟩ | ⟨why, _, _, hcycle⟩
  · simp [hr] at hrst
  · rw [hcycle, eq_of_checked hcmd] at h
    cases h; rfl
  · rw [hcycle] at h
    cases h

/-- At a tick of a busy state the sequencer becomes what the state's rule makes of the command's result (R110, R112). -/
theorem clockEdge_busyTick {start : Bool} {rsel : BitVec 2} {cmd : Instr} {s u : State} (hb : isBusy s.st = true)
    (ht : s.presc = s.cfg.clkPerUs - 1) (hu : seqTick (ltuStep cmd s.tcnt s.sync2) s = u) :
    SameSequencer (clockEdge start rsel cmd s) u := by
  obtain ⟨hnoRead, hlegal, _⟩ := busy_facts hb
  exact clockEdge_same ((sequencerEdge_tick (accepts_of_not hnoRead) hlegal ht).trans hu)

/-- Between ticks, and outside the busy states, no command changes the sequencer. -/
theorem clockEdge_hold {start : Bool} {rsel : BitVec 2} {cmd : Instr} {s : State} (hi : isIllegal s.st = false)
    (ha : accepts start s = false) (h : s.presc ≠ s.cfg.clkPerUs - 1 ∨ isBusy s.st = false) :
    SameSequencer (clockEdge start rsel cmd s) s := by
  by_cases ht : s.presc = s.cfg.clkPerUs - 1
  · exact clockEdge_same ((sequencerEdge_tick ha hi ht).trans (seqTick_quiet (h.resolve_left (not_not_intro ht))))
  · exact clockEdge_same (sequencerEdge_hold ha hi ht)

/-! ### A state's rule applied to a command's result -/

theorem apply_ltuDrive {α : Type} (f : LtuResult → α) (d tcnt : Ticks) :
    f (ltuDrive d tcnt) = if tcnt + 1#16 = d then f .ok else f (.run (tcnt + 1#16)) := by
  rw [ltuDrive, apply_ite f]

theorem apply_ltuWait {α : Type} (f : LtuResult → α) (level : Level) (t tcnt : Ticks) (sample : Level) :
    f (ltuWait level t tcnt sample) =
      if sample = level then f .ok else if tcnt = t then f .timeout else f (.run (tcnt + 1#16)) := by
  rw [ltuWait, apply_ite f, apply_ite f]

theorem apply_ltuMeasure {α : Type} (f : LtuResult → α) (c tcnt : Ticks) (sample : Level) :
    f (ltuMeasure c tcnt sample) =
      if sample = false then f (.meas tcnt true)
      else if tcnt + 1#16 = c then f (.meas c false)
      else f (.run (tcnt + 1#16)) := by
  rw [ltuMeasure, apply_ite f, apply_ite f]

/-- A command that goes on writes the counter and nothing else, but in CHECK, which looks at no result (R148). -/
theorem seqTick_run {s : State} (c : Ticks) (hb : isBusy s.st = true) (hs : s.st ≠ .check) :
    seqTick (.run c) s = { s with tcnt := c } := by
  obtain ⟨st, hst⟩ : ∃ st, s.st = st := ⟨_, rfl⟩
  cases st with
  | startLow => exact seqTick_startLow _ hst
  | startHigh => exact seqTick_startHigh _ hst
  | awaitAck => exact seqTick_awaitAck _ hst
  | ackLow => exact seqTick_ackLow _ hst
  | bitLow => exact seqTick_bitLow _ hst
  | bitHigh => exact seqTick_bitHigh _ hst
  | bitMeas => exact seqTick_bitMeas _ hst
  | check => exact absurd hst hs
  | idle | done | failed | illegal => simp [hst, isBusy] at hb

/-! ### The commands, each in its states -/

/-- Settles O15: RELEASE goes on with the counter as it is, so even a tick of a busy state before CHECK writes nothing. -/
theorem releaseHolds : Obligations.ReleaseHolds := by
  intro s hr
  refine ⟨_, exec_ltu_next rfl rfl hr, rfl, clockEdge_frame _ _ _ _, rfl, rfl, fun _ _ => rfl, fun ha hi hcheck => ?_⟩
  by_cases hquiet : s.presc ≠ s.cfg.clkPerUs - 1 ∨ isBusy s.st = false
  · exact clockEdge_hold hi ha hquiet
  · obtain ⟨htick, hbusy⟩ := not_or.1 hquiet
    rw [not_not] at htick
    exact clockEdge_busyTick (by simpa using hbusy) htick
      (seqTick_run s.tcnt (by simpa using hbusy) fun hs => hcheck ⟨hs, htick⟩)

/-- Settles O16: R141 applied to the two results of a drive. -/
theorem driveLowTimesTheStartPulse : Obligations.DriveLowTimesTheStartPulse := by
  intro s d hr hd
  refine ⟨_, exec_ltu_next rfl (decide_eq_true hd) hr, rfl, clockEdge_frame _ _ _ _, fun hs ht => ?_, clockEdge_hold⟩
  exact clockEdge_busyTick (by rw [hs]; rfl) ht
    ((seqTick_startLow _ hs).trans (apply_ltuDrive (phaseStartLow · s) d s.tcnt))

/-- Settles O17: R142 applied to the two results of a drive. -/
theorem driveHighTimesTheReleasePulse : Obligations.DriveHighTimesTheReleasePulse := by
  intro s d hr hd
  refine ⟨_, exec_ltu_next rfl (decide_eq_true hd) hr, rfl, clockEdge_frame _ _ _ _, fun hs ht => ?_, clockEdge_hold⟩
  exact clockEdge_busyTick (by rw [hs]; rfl) ht
    ((seqTick_startHigh _ hs).trans (apply_ltuDrive (phaseStartHigh · s) d s.tcnt))

/-- Settles O18: R143 and R145 applied to the three results of a wait for low. -/
theorem waitLowSucceedsTimesOutOrGoesOn : Obligations.WaitLowSucceedsTimesOutOrGoesOn := by
  intro s t16 hr
  refine ⟨_, exec_ltu_next rfl rfl hr, rfl, clockEdge_frame _ _ _ _, fun hs ht => ?_, fun hs ht => ?_, clockEdge_hold⟩
  · exact clockEdge_busyTick (by rw [hs]; rfl) ht
      ((seqTick_awaitAck _ hs).trans (apply_ltuWait (phaseAwaitAck · s) false t16 s.tcnt s.sync2))
  · exact clockEdge_busyTick (by rw [hs]; rfl) ht
      ((seqTick_bitLow _ hs).trans (apply_ltuWait (phaseBitLow · s) false t16 s.tcnt s.sync2))

/-- Settles O19: R144 and R146 applied to the three results of a wait for high. -/
theorem waitHighSucceedsTimesOutOrGoesOn : Obligations.WaitHighSucceedsTimesOutOrGoesOn := by
  intro s t16 hr
  refine ⟨_, exec_ltu_next rfl rfl hr, rfl, clockEdge_frame _ _ _ _, fun hs ht => ?_, fun hs ht => ?_, clockEdge_hold⟩
  · exact clockEdge_busyTick (by rw [hs]; rfl) ht
      ((seqTick_ackLow _ hs).trans (apply_ltuWait (phaseAckLow · s) true t16 s.tcnt s.sync2))
  · exact clockEdge_busyTick (by rw [hs]; rfl) ht
      ((seqTick_bitHigh _ hs).trans (apply_ltuWait (phaseBitHigh · s) true t16 s.tcnt s.sync2))

/-- Settles O20: R147 applied to the three results of a measurement; both ends of one take in the bit. -/
theorem measureHighTakesTheBit : Obligations.MeasureHighTakesTheBit := by
  intro s c hr hc
  refine ⟨_, exec_ltu_next rfl (decide_eq_true hc) hr, rfl, clockEdge_frame _ _ _ _, fun hs ht => ?_, clockEdge_hold⟩
  exact clockEdge_busyTick (by rw [hs]; rfl) ht
    ((seqTick_bitMeas _ hs).trans (apply_ltuMeasure (phaseBitMeas · s) c s.tcnt s.sync2))

end Sys2Proof.Machine
end

section
/-! What a tick can do to the registers (41_decoder_sequence.md R141 to R149), said once, and what an LTU command leaves
alone because of it (40_line_transport.md R112). -/

namespace Sys2Proof.Machine

/-- The five things that a tick, whatever the LTU result, can make of the state `s`. -/
inductive TickEffect (s : State) : State → Prop where
  /-- the counter alone is written; every hold is one of these -/
  | count (c : Ticks) : TickEffect s { s with tcnt := c }
  /-- a completed command leads on, with a fresh counter (R141 to R146) -/
  | advance (st : SeqState) (c : Ticks) (hst : st ≠ .failed)
      (hc : c = 0#16 ∨ (s.st = .bitHigh ∧ st = .bitMeas ∧ c = 1#16)) : TickEffect s { s with st := st, tcnt := c }
  /-- the failure path (60_exceptions.md R213) -/
  | fail (kind : FailureKind) (hbusy : isBusy s.st = true) : TickEffect s (raiseFailure kind s)
  /-- the end of a measurement (R147) -/
  | takeBit (n : Ticks) (endedLow : Bool) (hs : s.st = .bitMeas) : TickEffect s (phaseBitMeas (.meas n endedLow) s)
  /-- a matching checksum (42_checksum_frame.md R174) -/
  | publish (hs : s.st = .check) :
      TickEffect s { s with st := .done, outcome := .success, resFrame := s.shreg }

theorem TickEffect.hold (s : State) : TickEffect s s := .count s.tcnt

/-! The effect of each state's rule, by the result it is given. -/

theorem phaseStartLow_effect (s : State) : ∀ r, TickEffect s (phaseStartLow r s)
  | .run c => .count c
  | .ok => .advance _ _ (by decide) (.inl rfl)
  | .timeout => .hold s
  | .meas _ _ => .hold s

theorem phaseStartHigh_effect (s : State) : ∀ r, TickEffect s (phaseStartHigh r s)
  | .run c => .count c
  | .ok => .advance _ _ (by decide) (.inl rfl)
  | .timeout => .hold s
  | .meas _ _ => .hold s

theorem phaseAwaitAck_effect {s : State} (hs : s.st = .awaitAck) : ∀ r, TickEffect s (phaseAwaitAck r s)
  | .run c => .count c
  | .ok => .advance _ _ (by decide) (.inl rfl)
  | .timeout => .fail _ (by rw [hs]; rfl)
  | .meas _ _ => .hold s

theorem phaseAckLow_effect {s : State} (hs : s.st = .ackLow) : ∀ r, TickEffect s (phaseAckLow r s)
  | .run c => .count c
  | .ok => .advance _ _ (by decide) (.inl rfl)
  | .timeout => .fail _ (by rw [hs]; rfl)
  | .meas _ _ => .hold s

theorem phaseBitLow_effect {s : State} (hs : s.st = .bitLow) : ∀ r, TickEffect s (phaseBitLow r s)
  | .run c => .count c
  | .ok => .advance _ _ (by decide) (.inl rfl)
  | .timeout => .fail _ (by rw [hs]; rfl)
  | .meas _ _ => .hold s

theorem phaseBitHigh_effect {s : State} (hs : s.st = .bitHigh) : ∀ r, TickEffect s (phaseBitHigh r s)
  | .run c => .count c
  | .ok => .advance _ _ (by decide) (.inr ⟨hs, rfl, rfl⟩)
  | .timeout => .fail _ (by rw [hs]; rfl)
  | .meas _ _ => .hold s

theorem phaseBitMeas_effect {s : State} (hs : s.st = .bitMeas) : ∀ r, TickEffect s (phaseBitMeas r s)
  | .run c => .count c
  | .ok => .hold s
  | .timeout => .hold s
  | .meas n endedLow => .takeBit n endedLow hs

theorem phaseCheck_effect {s : State} (hs : s.st = .check) : TickEffect s (phaseCheck s) := by
  unfold phaseCheck
  split
  · exact .publish hs
  · exact .fail _ (by rw [hs]; rfl)

theorem seqTick_effect (r : LtuResult) (s : State) : TickEffect s (seqTick r s) := by
  unfold seqTick
  cases hs : s.st with
  | startLow => exact phaseStartLow_effect s r
  | startHigh => exact phaseStartHigh_effect s r
  | awaitAck => exact phaseAwaitAck_effect hs r
  | ackLow => exact phaseAckLow_effect hs r
  | bitLow => exact phaseBitLow_effect hs r
  | bitHigh => exact phaseBitHigh_effect hs r
  | bitMeas => exact phaseBitMeas_effect hs r
  | check => exact phaseCheck_effect hs
  | idle | done | failed | illegal => exact .hold s

/-- A cycle that accepts no READ and recovers no illegal code has the effect of a tick, or of none. -/
theorem sequencerEdge_effect {start : Bool} {cmd : Instr} {s : State} (ha : accepts start s = false)
    (hi : isIllegal s.st = false) : TickEffect s (sequencerEdge start cmd s) := by
  by_cases ht : s.presc = s.cfg.clkPerUs - 1
  · rw [sequencerEdge_tick ha hi ht]; exact seqTick_effect _ s
  · rw [sequencerEdge_hold ha hi ht]; exact .hold s

/-- A measurement never ends in BIT_MEAS or in FAILED (R147). -/
theorem afterMeasure_ne (bidx : BitVec 6) (endedLow : Bool) :
    afterMeasure bidx endedLow ≠ .bitMeas ∧ afterMeasure bidx endedLow ≠ .failed := by
  unfold afterMeasure
  cases endedLow <;> split <;> decide

/-- The registers that go from `s` to `u` unchanged, but where the rule of the state writes them (R112). -/
structure TickFrame (s u : State) : Prop where
  bidx : s.st ≠ .bitMeas → u.bidx = s.bidx
  shreg : s.st ≠ .bitMeas → u.st ≠ .failed → u.shreg = s.shreg
  stay : u.st = s.st → u.outcome = s.outcome ∧ u.bidx = s.bidx ∧ u.shreg = s.shreg ∧ u.resFrame = s.resFrame
  resFrame : s.st ≠ .check → u.resFrame = s.resFrame
  outcome : u.st ≠ .failed → s.st ≠ .check → u.outcome = s.outcome
  counter : u.st ≠ s.st → u.tcnt = 0#16 ∨ (s.st = .bitHigh ∧ u.st = .bitMeas ∧ u.tcnt = 1#16) ∨
    (s.st = .check ∧ u.tcnt = s.tcnt)

theorem TickEffect.frame {s u : State} (h : TickEffect s u) : TickFrame s u := by
  cases h with
  | count c =>
    exact ⟨fun _ => rfl, fun _ _ => rfl, fun _ => ⟨rfl, rfl, rfl, rfl⟩, fun _ => rfl, fun _ _ => rfl,
      fun hst => absurd rfl hst⟩
  | advance st c hst hc =>
    exact ⟨fun _ => rfl, fun _ _ => rfl, fun _ => ⟨rfl, rfl, rfl, rfl⟩, fun _ => rfl, fun _ _ => rfl,
      fun _ => hc.imp_right .inl⟩
  | fail kind hbusy =>
    have hne : SeqState.failed ≠ s.st := fun hs => by simp [← hs, isBusy] at hbusy
    exact ⟨fun _ => rfl, fun _ hst => absurd rfl hst, fun hst => absurd hst hne, fun _ => rfl,
      fun hst => absurd rfl hst, fun _ => .inl rfl⟩
  | takeBit n endedLow hs =>
    have hne : afterMeasure s.bidx endedLow ≠ s.st := hs ▸ (afterMeasure_ne _ _).1
    exact ⟨fun hst => absurd hs hst, fun hst => absurd hs hst, fun hst => absurd hst hne, fun _ => rfl,
      fun _ _ => rfl, fun _ => .inl rfl⟩
  | publish hs =>
    have hne : SeqState.done ≠ s.st := by rw [hs]; decide
    exact ⟨fun _ => rfl, fun _ _ => rfl, fun hst => absurd hst hne, fun hst => absurd hs hst,
      fun _ hst => absurd hs hst, fun _ => .inr (.inr ⟨hs, rfl⟩)⟩

/-- Settles O21: the command's edge has one of the five effects of a tick, each of which has the frame. -/
theorem ltuCommandFrame : Obligations.LtuCommandFrame := by
  intro i s t hf hexec hr ha hi
  rw [clockEdge_of_exec_ltu hf hexec hr]
  have hedge := clockEdge_frame (portOf s).start (portOf s).rsel i s
  rw [ha] at hedge
  obtain ⟨hbidx, hshreg, hstay, hresFrame, houtcome, hcounter⟩ :=
    (sequencerEdge_effect (cmd := i) ha hi).frame
  exact ⟨hedge, rfl, fun ht => clockEdge_hold hi ha (.inl ht), hbidx, hshreg, hstay, hresFrame, houtcome, hcounter⟩

end Sys2Proof.Machine
end

section
/-! One command over a list of samples, one a tick (40_line_transport.md R119). Every window of R114 to R118 is a prefix of
samples on which the counter counts, then a sample that ends the command. -/

namespace Sys2Proof.Machine

/-- Through the samples `xs`, from the counter value `base` on, `cmd` only counts. -/
def CountsThrough (cmd : Instr) (base : Nat) (xs : List Level) : Prop :=
  ∀ x ∈ xs, ∀ k, base ≤ k → k < base + xs.length →
    ltuStep cmd (BitVec.ofNat 16 k) x = .run (BitVec.ofNat 16 (k + 1))

theorem CountsThrough.tail {cmd : Instr} {base : Nat} {x : Level} {xs : List Level}
    (h : CountsThrough cmd base (x :: xs)) : CountsThrough cmd (base + 1) xs := by
  intro y hy k hk hlt
  exact h y (.tail _ hy) k (by omega) (by rw [List.length_cons]; omega)

theorem ltuRun_cons_run {cmd : Instr} {tcnt c : Ticks} {x : Level} (xs : List Level) (h : ltuStep cmd tcnt x = .run c) :
    ltuRun cmd tcnt (x :: xs) = (ltuRun cmd c xs).map fun p => (p.1, p.2 + 1) := by
  rw [ltuRun, h]

theorem ltuRun_cons_end {cmd : Instr} {tcnt : Ticks} {x : Level} {r : LtuResult} (xs : List Level)
    (h : ltuStep cmd tcnt x = r) (hend : ∀ c, r ≠ .run c) : ltuRun cmd tcnt (x :: xs) = some (r, 1) := by
  rw [ltuRun, h]
  cases r with
  | run c => exact absurd rfl (hend c)
  | ok | timeout | meas => rfl

/-- A run over a prefix that `cmd` only counts through is the run over the rest, as many ticks later. -/
theorem CountsThrough.ltuRun_append {cmd : Instr} {base : Nat} {xs : List Level} (rest : List Level)
    (h : CountsThrough cmd base xs) :
    ltuRun cmd (BitVec.ofNat 16 base) (xs ++ rest) =
      (ltuRun cmd (BitVec.ofNat 16 (base + xs.length)) rest).map fun p => (p.1, p.2 + xs.length) := by
  induction xs generalizing base with
  | nil => simp
  | cons x xs ih =>
    have hstep := h x (.head _) base (Nat.le_refl _) (by rw [List.length_cons]; omega)
    rw [List.cons_append, ltuRun_cons_run _ hstep, ih h.tail, Option.map_map, List.length_cons, Nat.add_right_comm base]
    rfl

/-- A command that counts through all its samples has not ended. -/
theorem CountsThrough.ltuRun_eq_none {cmd : Instr} {base : Nat} {xs : List Level} (h : CountsThrough cmd base xs) :
    ltuRun cmd (BitVec.ofNat 16 base) xs = none := by
  simpa [ltuRun] using h.ltuRun_append []

/-- A command that counts through `xs` and ends at the next sample has taken one tick for each. -/
theorem CountsThrough.ltuRun_eq_some {cmd : Instr} {base : Nat} {xs : List Level} {x : Level} {r : LtuResult}
    (rest : List Level) (h : CountsThrough cmd base xs)
    (hstep : ltuStep cmd (BitVec.ofNat 16 (base + xs.length)) x = r) (hend : ∀ c, r ≠ .run c) :
    ltuRun cmd (BitVec.ofNat 16 base) (xs ++ x :: rest) = some (r, xs.length + 1) := by
  rw [h.ltuRun_append, ltuRun_cons_end rest hstep hend, Option.map_some, Nat.add_comm 1]

/-- A counter value is the bound when its number is. -/
theorem ofNat_eq_iff {k : Nat} {bound : Ticks} (h : k ≤ bound.toNat) :
    BitVec.ofNat 16 k = bound ↔ k = bound.toNat := by
  have hlt := bound.isLt
  rw [← BitVec.toNat_inj, BitVec.toNat_ofNat, Nat.mod_eq_of_lt (by omega)]

theorem ofNat_succ (k : Nat) : BitVec.ofNat 16 k + 1#16 = BitVec.ofNat 16 (k + 1) := (BitVec.ofNat_add k 1).symm

/-! ### Drives -/

section
variable {cmd : Instr} {d : Ticks} (hcmd : ∀ tcnt x, ltuStep cmd tcnt x = ltuDrive d tcnt)
include hcmd

theorem drive_countsThrough {xs : List Level} (h : xs.length < d.toNat) : CountsThrough cmd 0 xs := by
  intro x _ k _ hk
  rw [hcmd, ltuDrive, ofNat_succ, if_neg (by rw [ofNat_eq_iff (by omega)]; omega)]

theorem ltuRun_drive {xs : List Level} (hd : d ≠ 0#16) (h : d.toNat ≤ xs.length) :
    ltuRun cmd 0#16 xs = some (.ok, d.toNat) := by
  have hpos : 0 < d.toNat := Nat.pos_of_ne_zero fun hzero => hd (BitVec.eq_of_toNat_eq hzero)
  have hlast : d.toNat - 1 < xs.length := by omega
  have hlen : (xs.take (d.toNat - 1)).length = d.toNat - 1 := List.length_take_of_le (by omega)
  have hcounts : CountsThrough cmd 0 (xs.take (d.toNat - 1)) := drive_countsThrough hcmd (by omega)
  have hrun := hcounts.ltuRun_eq_some (x := xs[d.toNat - 1]) (r := .ok) (xs.drop (d.toNat - 1 + 1))
    (by rw [hcmd, ltuDrive, ofNat_succ, if_pos ((ofNat_eq_iff (by omega)).2 (by omega))]) nofun
  rwa [← List.drop_eq_getElem_cons hlast, List.take_append_drop, hlen, Nat.sub_add_cancel hpos] at hrun

end

/-- Settles O23: a drive counts through its first `d` - 1 samples, whatever they are, and ends at the next. -/
theorem driveLastsExactlyItsDuration : Obligations.DriveLastsExactlyItsDuration := by
  intro d samples hd
  have hlow : ∀ tcnt x, ltuStep (.driveLow d) tcnt x = ltuDrive d tcnt := fun _ _ => rfl
  have hhigh : ∀ tcnt x, ltuStep (.driveHigh d) tcnt x = ltuDrive d tcnt := fun _ _ => rfl
  exact ⟨fun h => ⟨ltuRun_drive hlow hd h, ltuRun_drive hhigh hd h⟩,
    fun h => ⟨(drive_countsThrough hlow h).ltuRun_eq_none, (drive_countsThrough hhigh h).ltuRun_eq_none⟩⟩

/-! ### Waits -/

section
variable {cmd : Instr} {level : Level} {t16 : Ticks} (hcmd : ∀ tcnt x, ltuStep cmd tcnt x = ltuWait level t16 tcnt x)
include hcmd

theorem wait_countsThrough {r : Nat} (h : r ≤ t16.toNat) : CountsThrough cmd 0 (List.replicate r (!level)) := by
  intro x hx k _ hk
  rw [List.length_replicate] at hk
  rw [hcmd, List.eq_of_mem_replicate hx, ltuWait, if_neg (by simp), ofNat_succ,
    if_neg (by rw [ofNat_eq_iff (by omega)]; omega)]

/-- The window of a wait: `t16` + 1 samples, of which the first at `level` succeeds. -/
theorem ltuRun_wait (r : Nat) (rest : List Level) :
    ltuRun cmd 0#16 (List.replicate r (!level) ++ level :: rest) =
      if r ≤ t16.toNat then some (.ok, r + 1) else some (.timeout, t16.toNat + 1) := by
  split
  · next hr =>
    have hrun := (wait_countsThrough hcmd hr).ltuRun_eq_some (x := level) (r := .ok) rest
      (by rw [hcmd, ltuWait, if_pos rfl]) nofun
    rwa [List.length_replicate] at hrun
  · next hr =>
    obtain ⟨n, hn⟩ : ∃ n, r = t16.toNat + (n + 1) := ⟨r - t16.toNat - 1, by omega⟩
    have hrun := (wait_countsThrough hcmd (Nat.le_refl _)).ltuRun_eq_some (x := !level) (r := .timeout)
      (List.replicate n (!level) ++ level :: rest)
      (by
        rw [hcmd, List.length_replicate, ltuWait, if_neg (by simp), if_pos ((ofNat_eq_iff (by omega)).2 (by omega))])
      nofun
    rwa [List.length_replicate, ← List.cons_append, ← List.replicate_succ, ← List.append_assoc,
      List.replicate_append_replicate, ← hn] at hrun

end

/-- Settles O24: the window of a wait, with low the level awaited. -/
theorem waitLowWindow : Obligations.WaitLowWindow :=
  fun _ => ltuRun_wait (level := false) fun _ _ => rfl

/-- Settles O25: the window of a wait, with high the level awaited. -/
theorem waitHighWindow : Obligations.WaitHighWindow :=
  fun _ => ltuRun_wait (level := true) fun _ _ => rfl

/-! ### The measurement -/

theorem measure_countsThrough {c : Ticks} {n : Nat} (h : 1 + n < c.toNat) :
    CountsThrough (.measureHigh c) 1 (List.replicate n true) := by
  intro x hx k _ hk
  rw [List.length_replicate] at hk
  rw [List.eq_of_mem_replicate hx, ltuStep, ltuMeasure, if_neg (by decide), ofNat_succ,
    if_neg (by rw [ofNat_eq_iff (by omega)]; omega)]

/-- Settles O26: a phase shorter than the ceiling is counted through to its low sample; a longer one is counted through
to the sample before the ceiling. -/
theorem measurementIsMinOfLengthAndCeiling : Obligations.MeasurementIsMinOfLengthAndCeiling := by
  intro c h rest hc hh
  split
  · next hlt =>
    rw [Nat.min_eq_left hlt.le]
    have hrun := (measure_countsThrough (c := c) (n := h - 1) (by omega)).ltuRun_eq_some (x := false)
      (r := .meas (BitVec.ofNat 16 h) true) rest
      (by rw [List.length_replicate, Nat.add_sub_cancel' hh, ltuStep, ltuMeasure, if_pos rfl]) nofun
    rwa [List.length_replicate, Nat.sub_add_cancel hh] at hrun
  · next hge =>
    obtain ⟨n, hn⟩ : ∃ n, h - 1 = (c.toNat - 2) + (n + 1) := ⟨h - c.toNat, by omega⟩
    have hceiling : BitVec.ofNat 16 (1 + (c.toNat - 2)) + 1#16 = c := by
      rw [ofNat_succ, ofNat_eq_iff (by omega)]; omega
    have hrun := (measure_countsThrough (c := c) (n := c.toNat - 2) (by omega)).ltuRun_eq_some (x := true)
      (r := .meas c false) (List.replicate n true ++ false :: rest)
      (by rw [List.length_replicate, ltuStep, ltuMeasure, if_neg (by decide), if_pos hceiling]) nofun
    rw [Nat.min_eq_right (Nat.not_lt.1 hge), BitVec.ofNat_toNat, BitVec.setWidth_eq]
    rwa [List.length_replicate, ← List.cons_append, ← List.replicate_succ, ← List.append_assoc,
      List.replicate_append_replicate, ← hn, show c.toNat - 2 + 1 = c.toNat - 1 by omega] at hrun

end Sys2Proof.Machine
end

section
/-! The pad outputs (40_line_transport.md R111). -/

namespace Sys2Proof.Machine

/-- Settles O27: the pads are those of the state's command in R89's table, and only its two drives enable the line. -/
theorem lineIsDrivenOnlyInTheStartPulse : Obligations.LineIsDrivenOnlyInTheStartPulse := by
  refine ⟨fun x => by simp [padEnable, padOut], fun s cmd => pads_of_command, fun s hl => ?_⟩
  obtain ⟨hoe, hout⟩ := pads_of_command (commandTable s hl).1
  rw [hoe, hout]
  cases s.st <;> simp [padEnable, padOut]

end Sys2Proof.Machine
end

section
/-! The block against its host (41_decoder_sequence.md R140, R149): the states that wait for a READ, and the host inputs
during a transaction. -/

namespace Sys2Proof.Machine

/-- Settles O41: the command is RELEASE, no READ is asked for, and outside the busy states the sequencer holds. -/
theorem quiescentStatesHold : Obligations.QuiescentStatesHold := by
  intro s hs hr hstart
  have hbusy : isBusy s.st = false := by rcases hs with hs | hs | hs <;> rw [hs] <;> rfl
  have hlegal : isIllegal s.st = false := by rcases hs with hs | hs | hs <;> rw [hs] <;> rfl
  have hcmd : currentCommand s = .ok .release := currentCommand_release (.inl hbusy)
  have hacc : accepts (portOf s).start s = false := by simp [accepts, hstart]
  exact ⟨_, by rw [step_eq, hcmd, clockCycle_ok hr], hcmd, clockEdge_hold hlegal hacc (.inr hbusy)⟩

/-- No rule of the sequencer looks at the ports or writes them. -/
theorem seqTick_inputs (r : LtuResult) (inputs : List CycleInput) (s : State) :
    seqTick r { s with inputs := inputs } = { seqTick r s with inputs := inputs } := by
  obtain ⟨cfg, st, bidx, shreg, tcnt, presc, sync1, sync2, outcome, resFrame, rdata, _, cycle⟩ := s
  cases st
  case check => simp only [seqTick, phaseCheck]; split <;> rfl
  case idle | done | failed | illegal => rfl
  all_goals cases r <;> rfl

/-- The edge of a busy block takes nothing of its ports but the line and, for the read port, `rsel`
(41_decoder_sequence.md R140, 43_host_interface.md R191). -/
theorem clockEdge_busy {s : State} (hb : isBusy s.st = true) (start : Bool) (rsel : BitVec 2) (cmd : Instr)
    (p : CycleInput) (rest : List CycleInput) :
    clockEdge start rsel cmd { s with inputs := p :: rest } =
      { (if isTick s then seqTick (ltuStep cmd s.tcnt s.sync2) s else s) with
        presc := prescNext false s
        sync1 := lineLevel cmd p.line
        sync2 := s.sync1
        rdata := regView s rsel
        inputs := rest
        cycle := s.cycle + 1 } := by
  obtain ⟨hnoRead, hlegal, _⟩ := busy_facts hb
  have hacc : accepts start { s with inputs := p :: rest } = false := accepts_of_not hnoRead
  have hedge : sequencerEdge start cmd { s with inputs := p :: rest } =
      { (if isTick s then seqTick (ltuStep cmd s.tcnt s.sync2) s else s) with inputs := p :: rest } := by
    by_cases ht : s.presc = s.cfg.clkPerUs - 1
    · rw [sequencerEdge_tick hacc hlegal ht, seqTick_inputs, if_pos ((isTick_iff s).2 ht)]
    · rw [sequencerEdge_hold hacc hlegal ht, if_neg (mt (isTick_iff s).1 ht)]
  simp only [clockEdge, hedge, hacc, hlegal]
  rfl

/-- A step performs the command of the sequencer's state, which does not depend on the ports. -/
theorem step_ports (s : State) (p : CycleInput) (rest : List CycleInput) :
    step { s with inputs := p :: rest } = clockCycle p.start p.rsel (currentCommand s) { s with inputs := p :: rest } :=
  step_eq _

/-- Settles O42: both steps perform the same command, and a busy edge takes nothing of the host's inputs but the `rsel`
of the sampled `rdata`. -/
theorem hostCannotDisturbATransaction : Obligations.HostCannotDisturbATransaction := by
  intro s start' rsel' rest p hb hrst
  rw [step_ports, step_ports]
  cases currentCommand s with
  | ok cmd =>
    refine .inl ⟨_, _, clockCycle_ok hrst, clockCycle_ok hrst, ?_⟩
    rw [clockEdge_busy hb, clockEdge_busy hb]
  | error why => exact .inr ⟨_, clockCycle_error hrst, clockCycle_error hrst⟩

end Sys2Proof.Machine
end

section
/-! The sequence of a transaction (41_decoder_sequence.md R141 to R153). The sequencer runs one LTU command after
another, so each phase is one command over a list of samples (`ltuRun`, 40_line_transport.md R119), and what the windows
of R114 to R118 say of the command they say of the phase (`tickRun_of_ltuRun`). -/

namespace Sys2Proof.Machine

/-! ### One command of the sequence -/

theorem tickRun_quiet {s : State} (xs : List Level) (hs : isBusy s.st = false) : tickRun xs s = s := by
  induction xs with
  | nil => rfl
  | cons x xs ih => rw [tickRun, tickStep_quiet x hs, ih]

/-- While a command goes on, only the counter moves; the tick that completes it leads where the state's rule says. -/
theorem tickRun_take_of_ltuRun {s next : State} {cmd : Instr} {r : LtuResult} {xs : List Level} {n : Nat}
    (hcmd : currentCommand s = .ok cmd) (hbusy : isBusy s.st = true) (hcheck : s.st ≠ .check)
    (hrun : ltuRun cmd s.tcnt xs = some (r, n)) (hnext : ∀ c, seqTick r { s with tcnt := c } = next) :
    tickRun (xs.take n) s = next := by
  induction xs generalizing s n with
  | nil => simp [ltuRun] at hrun
  | cons x xs ih =>
    cases hstep : ltuStep cmd s.tcnt x with
    | run c =>
      rw [ltuRun_cons_run xs hstep, Option.map_eq_some_iff] at hrun
      obtain ⟨⟨r', m⟩, hrun, hpair⟩ := hrun
      cases hpair
      rw [List.take_succ_cons, tickRun, tickStep_of_command hcmd, hstep, seqTick_run c hbusy hcheck]
      exact ih hcmd hbusy hcheck hrun hnext
    | ok | timeout | meas =>
      rw [ltuRun_cons_end xs hstep nofun] at hrun
      cases hrun
      rw [List.take_succ_cons, tickRun, tickStep_of_command hcmd, hstep]
      exact hnext s.tcnt

/-- The samples after a completed command go to the next phase. -/
theorem tickRun_of_ltuRun {s next : State} {cmd : Instr} {r : LtuResult} {xs : List Level} {n : Nat}
    (hcmd : currentCommand s = .ok cmd) (hbusy : isBusy s.st = true) (hcheck : s.st ≠ .check)
    (hrun : ltuRun cmd s.tcnt xs = some (r, n)) (hnext : ∀ c, seqTick r { s with tcnt := c } = next) :
    tickRun xs s = tickRun (xs.drop n) next := by
  rw [← tickRun_take_of_ltuRun hcmd hbusy hcheck hrun hnext, ← tickRun_append, List.take_append_drop]

/-! ### The start condition -/

/-- A drive of `p` ticks takes `p` samples, whatever they are. -/
theorem tickRun_drive {s next : State} {cmd : Instr} {p : Nat} {xs : List Level} (hcmd : currentCommand s = .ok cmd)
    (hdrive : ∀ tcnt x, ltuStep cmd tcnt x = ltuDrive (tickArg p) tcnt) (hpos : 1 ≤ p) (hle : p ≤ 65535)
    (hzero : s.tcnt = 0#16) (hbusy : isBusy s.st = true) (hcheck : s.st ≠ .check)
    (hok : ∀ c, seqTick .ok { s with tcnt := c } = next) (hlen : p ≤ xs.length) :
    tickRun xs s = tickRun (xs.drop p) next := by
  have hrun := ltuRun_drive (xs := xs) hdrive (tickArg_ne_zero hpos hle) (by rwa [tickArg_toNat hle])
  rw [tickArg_toNat hle, ← hzero] at hrun
  exact tickRun_of_ltuRun hcmd hbusy hcheck hrun hok

theorem tickRun_startLow {s : State} {xs : List Level} (hl : s.cfg.legal = true) (hs : s.st = .startLow)
    (hzero : s.tcnt = 0#16) (hlen : s.cfg.tStartLow ≤ xs.length) :
    tickRun xs s = tickRun (xs.drop s.cfg.tStartLow) { s with st := .startHigh, tcnt := 0#16 } := by
  have hlegal := (Params.legal_iff _).1 hl
  exact tickRun_drive (currentCommand_startLow hl hs) (fun _ _ => rfl) (by omega) (by omega) hzero (by rw [hs]; rfl)
    (by simp [hs]) (fun _ => seqTick_startLow _ hs) hlen

theorem tickRun_startHigh {s : State} {xs : List Level} (hl : s.cfg.legal = true) (hs : s.st = .startHigh)
    (hzero : s.tcnt = 0#16) (hlen : s.cfg.tRelHigh ≤ xs.length) :
    tickRun xs s = tickRun (xs.drop s.cfg.tRelHigh) { s with st := .awaitAck, tcnt := 0#16 } := by
  have hlegal := (Params.legal_iff _).1 hl
  exact tickRun_drive (currentCommand_startHigh hl hs) (fun _ _ => rfl) (by omega) (by omega) hzero (by rw [hs]; rfl)
    (by simp [hs]) (fun _ => seqTick_startHigh _ hs) hlen

/-- Settles O32: the two drives take T_START_LOW and T_REL_HIGH samples, which are all there are. -/
theorem startConditionIgnoresTheLine : Obligations.StartConditionIgnoresTheLine := by
  intro s samples hl hs hzero hlen
  have hpulse := tickRun_startLow hl hs hzero (xs := samples) (by omega)
  have hrelease := tickRun_startHigh (s := { s with st := .startHigh, tcnt := 0#16 })
    (xs := samples.drop s.cfg.tStartLow) hl rfl rfl (by simp [hlen])
  rw [hpulse, hrelease, List.drop_drop, List.drop_of_length_le (by simp [hlen])]
  rfl

/-! ### The waits -/

/-- `s` begins a wait for `level` with bound `p`: a sample at `level` leads to `next`, the bound to failure `kind`. -/
structure BeginsWait (s : State) (level : Level) (p : Nat) (kind : FailureKind) (next : State) : Prop where
  command : currentCommand s = .ok (expandPseudo (.waitForLevel level (tickArg p)))
  bound : p ≤ 65535
  fresh : s.tcnt = 0#16
  busy : isBusy s.st = true
  notCheck : s.st ≠ .check
  ok : ∀ c, seqTick .ok { s with tcnt := c } = next
  timeout : ∀ c, seqTick .timeout { s with tcnt := c } = raiseFailure kind s

theorem BeginsWait.ltuRun_window {s next : State} {level : Level} {p : Nat} {kind : FailureKind}
    (h : BeginsWait s level p kind next) (r : Nat) (rest : List Level) :
    ltuRun (expandPseudo (.waitForLevel level (tickArg p))) s.tcnt
        (List.replicate r (!level) ++ level :: rest) =
      if r ≤ p then some (.ok, r + 1) else some (.timeout, p + 1) := by
  have hwait := ltuRun_wait (cmd := expandPseudo (.waitForLevel level (tickArg p))) (level := level)
    (t16 := tickArg p) (by cases level <;> exact fun _ _ => rfl) r rest
  rwa [tickArg_toNat h.bound, ← h.fresh] at hwait

/-- The window of a wait in the sequence: `p` + 1 samples, of which the first at `level` leads on. -/
theorem BeginsWait.tickRun_window {s next : State} {level : Level} {p : Nat} {kind : FailureKind}
    (h : BeginsWait s level p kind next) (r : Nat) (rest : List Level) :
    tickRun (List.replicate r (!level) ++ level :: rest) s =
      if r ≤ p then tickRun rest next else raiseFailure kind s := by
  have hrun := h.ltuRun_window r rest
  split
  · next hle =>
    rw [if_pos hle] at hrun
    rw [tickRun_of_ltuRun h.command h.busy h.notCheck hrun h.ok]
    simp [List.drop_append]
  · next hgt =>
    rw [if_neg hgt] at hrun
    rw [tickRun_of_ltuRun h.command h.busy h.notCheck hrun h.timeout, tickRun_quiet _ rfl]

/-- A wait fails at its sample number `p` + 1, without looking at more. -/
theorem BeginsWait.tickRun_timeout {s next : State} {level : Level} {p : Nat} {kind : FailureKind}
    (h : BeginsWait s level p kind next) {r : Nat} (hr : p < r) (rest : List Level) :
    tickRun ((List.replicate r (!level) ++ level :: rest).take (p + 1)) s = raiseFailure kind s := by
  have hrun := h.ltuRun_window r rest
  rw [if_neg (Nat.not_le.2 hr)] at hrun
  exact tickRun_take_of_ltuRun h.command h.busy h.notCheck hrun h.timeout

theorem beginsWait_awaitAck {s : State} (hl : s.cfg.legal = true) (hs : s.st = .awaitAck) (hzero : s.tcnt = 0#16) :
    BeginsWait s false s.cfg.tAckTo .handshakeTimeout { s with st := .ackLow, tcnt := 0#16 } where
  command := currentCommand_awaitAck hs
  bound := by have hlegal := (Params.legal_iff _).1 hl; omega
  fresh := hzero
  busy := by rw [hs]; rfl
  notCheck := by simp [hs]
  ok _ := seqTick_awaitAck _ hs
  timeout _ := seqTick_awaitAck _ hs

theorem beginsWait_ackLow {s : State} (hl : s.cfg.legal = true) (hs : s.st = .ackLow) (hzero : s.tcnt = 0#16) :
    BeginsWait s true s.cfg.tAckTo .handshakeTimeout { s with st := .bitLow, tcnt := 0#16 } where
  command := currentCommand_ackLow hs
  bound := by have hlegal := (Params.legal_iff _).1 hl; omega
  fresh := hzero
  busy := by rw [hs]; rfl
  notCheck := by simp [hs]
  ok _ := seqTick_ackLow _ hs
  timeout _ := seqTick_ackLow _ hs

theorem beginsWait_bitLow {s : State} (hl : s.cfg.legal = true) (hs : s.st = .bitLow) (hzero : s.tcnt = 0#16) :
    BeginsWait s false (bitLowTimeout s.cfg s.bidx) .bitTimeout { s with st := .bitHigh, tcnt := 0#16 } where
  command := currentCommand_bitLow hs
  bound := (bitLowTimeout_le _ hl).trans (by decide)
  fresh := hzero
  busy := by rw [hs]; rfl
  notCheck := by simp [hs]
  ok _ := seqTick_bitLow _ hs
  timeout _ := seqTick_bitLow _ hs

/-- The sample that ends BIT_HIGH is counted (R146). -/
theorem beginsWait_bitHigh {s : State} (hl : s.cfg.legal = true) (hs : s.st = .bitHigh) (hzero : s.tcnt = 0#16) :
    BeginsWait s true s.cfg.tBitTo .bitTimeout { s with st := .bitMeas, tcnt := 1#16 } where
  command := currentCommand_bitHigh hs
  bound := by have hlegal := (Params.legal_iff _).1 hl; omega
  fresh := hzero
  busy := by rw [hs]; rfl
  notCheck := by simp [hs]
  ok _ := seqTick_bitHigh _ hs
  timeout _ := seqTick_bitHigh _ hs

/-! ### The handshake -/

/-- An acknowledgement, cut where its samples end a wait. -/
theorem ackSamples_succ (r l a : Nat) :
    ackSamples r (l + 1) (a + 1) =
      List.replicate r true ++ false :: (List.replicate l false ++ true :: (List.replicate a true ++ [false])) := rfl

/-- The three waits of the handshake in turn (41_decoder_sequence.md R143 to R145). -/
theorem tickRun_ackSamples {s : State} (hl : s.cfg.legal = true) (hs : s.st = .awaitAck) (hzero : s.tcnt = 0#16)
    (hbidx : s.bidx = 0#6) (r l a : Nat) :
    tickRun (ackSamples r (l + 1) (a + 1)) s =
      if r ≤ s.cfg.tAckTo then
        if l ≤ s.cfg.tAckTo then
          if a ≤ s.cfg.tBit0LowTo then { s with st := .bitHigh, tcnt := 0#16 } else raiseFailure .bitTimeout s
        else raiseFailure .handshakeTimeout s
      else raiseFailure .handshakeTimeout s := by
  have hbit0 : bitLowTimeout s.cfg s.bidx = s.cfg.tBit0LowTo := by rw [bitLowTimeout, if_pos hbidx]
  have hack := (beginsWait_awaitAck hl hs hzero).tickRun_window r
    (List.replicate l false ++ true :: (List.replicate a true ++ [false]))
  have hhigh := (beginsWait_ackLow (s := { s with st := .ackLow, tcnt := 0#16 }) hl rfl rfl).tickRun_window l
    (List.replicate a true ++ [false])
  have hlow := (beginsWait_bitLow (s := { s with st := .bitLow, tcnt := 0#16 }) hl rfl rfl).tickRun_window a []
  simp only [Bool.not_true, Bool.not_false, hbit0] at hack hhigh hlow
  rw [ackSamples_succ, hack, hhigh, hlow]
  rfl

/-- Settles O33: the three waits have the windows of R152, each counted without the sample that ends it. -/
theorem handshakeWindows : Obligations.HandshakeWindows := by
  intro s r l a hl hs hzero hbidx hl1 ha1
  obtain ⟨l, rfl⟩ : ∃ k, l = k + 1 := ⟨l - 1, by omega⟩
  obtain ⟨a, rfl⟩ : ∃ k, a = k + 1 := ⟨a - 1, by omega⟩
  simp only [tickRun_ackSamples hl hs hzero hbidx, Nat.add_le_add_iff_right, Nat.add_lt_add_iff_right]
  refine ⟨fun hr hl ha => ?_, fun hr => ⟨?_, ?_⟩, fun hr hl => ?_, fun hr hl ha => ?_⟩
  · rw [if_pos hr, if_pos hl, if_pos ha]
  · rw [if_neg (Nat.not_le.2 hr)]
  · exact (beginsWait_awaitAck hl hs hzero).tickRun_timeout hr _
  · rw [if_pos hr, if_neg (Nat.not_le.2 hl)]
  · rw [if_pos hr, if_pos hl, if_neg (Nat.not_le.2 ha)]

/-! ### One bit -/

/-- `s` after the capture of a bit whose high phase was measured as `n` (41_decoder_sequence.md R147). -/
def bitCaptured (s : State) (n : Nat) (endedLow : Bool) : State :=
  { s with
    shreg := shiftIn s.shreg (decide (s.cfg.tThresh < n))
    bidx := s.bidx + 1#6
    tcnt := 0#16
    st := afterMeasure s.bidx endedLow }

theorem seqTick_meas {s : State} {n : Nat} (hs : s.st = .bitMeas) (hn : n ≤ 65535) (endedLow : Bool) (c : Ticks) :
    seqTick (.meas (tickArg n) endedLow) { s with tcnt := c } = bitCaptured s n endedLow := by
  have hphase := seqTick_bitMeas (s := { s with tcnt := c }) (.meas (tickArg n) endedLow) hs
  rw [hphase]
  simp only [phaseBitMeas, decideBit, tickArg_toNat hn, bitCaptured]

/-- The measurement of a high phase of `h` samples, its first one taken in BIT_HIGH: a low sample ends it below the
ceiling, its `T_CAP`-th high sample at the ceiling (R118). -/
theorem ltuRun_measureCap {s : State} {h : Nat} (hl : s.cfg.legal = true) (hone : s.tcnt = 1#16) (hh : 1 ≤ h) :
    ltuRun (.measureHigh (tickArg s.cfg.tCap)) s.tcnt (List.replicate (h - 1) true ++ [false]) =
      if h < s.cfg.tCap then some (.meas (tickArg h) true, h)
      else some (.meas (tickArg s.cfg.tCap) false, s.cfg.tCap - 1) := by
  have hlegal := (Params.legal_iff _).1 hl
  have hcap : (tickArg s.cfg.tCap).toNat = s.cfg.tCap := tickArg_toNat (by omega)
  rw [hone, measurementIsMinOfLengthAndCeiling (tickArg s.cfg.tCap) h [] (by omega) hh, hcap]
  split
  · next hlt => rw [Nat.min_eq_left hlt.le, tickArg]
  · next hge => rw [Nat.min_eq_right (Nat.not_lt.1 hge), tickArg]

/-- A high phase below the ceiling, from BIT_MEAS on. -/
theorem tickRun_measureShort {s : State} {h : Nat} (hl : s.cfg.legal = true) (hs : s.st = .bitMeas)
    (hone : s.tcnt = 1#16) (hh : 1 ≤ h) (hlt : h < s.cfg.tCap) :
    tickRun (List.replicate (h - 1) true ++ [false]) s = bitCaptured s h true := by
  have hlegal := (Params.legal_iff _).1 hl
  have hrun := ltuRun_measureCap hl hone hh
  rw [if_pos hlt] at hrun
  rw [tickRun_of_ltuRun (currentCommand_bitMeas hl hs) (by rw [hs]; rfl) (by simp [hs]) hrun
    (seqTick_meas (n := h) hs (by omega) true), List.drop_of_length_le (by simp; omega)]
  rfl

/-- A high phase that reaches the ceiling, from BIT_MEAS on. -/
theorem tickRun_measureCeiling {s : State} (hl : s.cfg.legal = true) (hs : s.st = .bitMeas) (hone : s.tcnt = 1#16) :
    tickRun (List.replicate (s.cfg.tCap - 1) true) s = bitCaptured s s.cfg.tCap false := by
  have hlegal := (Params.legal_iff _).1 hl
  have hrun := ltuRun_measureCap (h := s.cfg.tCap) hl hone (by omega)
  rw [if_neg (Nat.lt_irrefl _)] at hrun
  have hticks := tickRun_take_of_ltuRun (currentCommand_bitMeas hl hs) (by rw [hs]; rfl) (by simp [hs]) hrun
    (seqTick_meas (n := s.cfg.tCap) hs (by omega) false)
  rwa [List.take_left' List.length_replicate] at hticks

/-- The low phase of a bit, its first sample already taken, and the high sample that ends it (R146). -/
theorem tickRun_lowPhase {s : State} (hl : s.cfg.legal = true) (hs : s.st = .bitHigh) (hzero : s.tcnt = 0#16)
    (lw : Nat) (rest : List Level) :
    tickRun (List.replicate (lw - 1) false ++ true :: rest) s =
      if lw ≤ s.cfg.tBitTo + 1 then tickRun rest { s with st := .bitMeas, tcnt := 1#16 }
      else raiseFailure .bitTimeout s := by
  have hwindow := (beginsWait_bitHigh hl hs hzero).tickRun_window (lw - 1) rest
  simpa only [Bool.not_true, Nat.sub_le_iff_le_add] using hwindow

/-- The samples of a bit, cut at its first high sample. -/
theorem bitSamples_eq (lw : Nat) {h : Nat} (hh : 1 ≤ h) :
    bitSamples lw h = List.replicate (lw - 1) false ++ true :: (List.replicate (h - 1) true ++ [false]) := by
  obtain ⟨k, rfl⟩ : ∃ k, h = k + 1 := ⟨h - 1, by omega⟩
  rfl

/-- A bit whose high phase reaches the ceiling, up to there. -/
theorem tickRun_cappedBit {s : State} {lw : Nat} (hl : s.cfg.legal = true) (hs : s.st = .bitHigh)
    (hzero : s.tcnt = 0#16) (hle : lw ≤ s.cfg.tBitTo + 1) :
    tickRun (List.replicate (lw - 1) false ++ List.replicate s.cfg.tCap true) s = bitCaptured s s.cfg.tCap false := by
  have hlegal := (Params.legal_iff _).1 hl
  have hcut : List.replicate s.cfg.tCap true = true :: List.replicate (s.cfg.tCap - 1) true := by
    rw [← List.replicate_succ, Nat.sub_add_cancel (by omega)]
  rw [hcut, tickRun_lowPhase hl hs hzero, if_pos hle]
  exact tickRun_measureCeiling (s := { s with st := .bitMeas, tcnt := 1#16 }) hl rfl rfl

theorem afterMeasure_eq (bidx : BitVec 6) (endedLow : Bool) :
    afterMeasure bidx endedLow = if bidx = 39#6 then .check else if endedLow then .bitHigh else .bitLow := by
  have hlast : bidx + 1#6 = 40#6 ↔ bidx = 39#6 := by revert bidx; decide
  simp only [afterMeasure, hlast]

/-- Settles O34: a low phase within its window leads to the measurement, which a low sample ends below the ceiling. -/
theorem bitWindow : Obligations.BitWindow := by
  intro s lw h hl hs hzero _ _ hh
  rw [bitSamples_eq lw hh, tickRun_lowPhase hl hs hzero]
  refine ⟨fun hle hlt => ?_, fun hgt => if_neg (Nat.not_le.2 hgt)⟩
  rw [if_pos hle, tickRun_measureShort (s := { s with st := .bitMeas, tcnt := 1#16 }) hl rfl rfl hh hlt]
  simp only [bitCaptured, afterMeasure_eq, if_true]

/-- A high phase that goes on past the ceiling is the wait for low of the next bit (41_decoder_sequence.md R153). -/
theorem bitSamples_capped (lw : Nat) {h cap : Nat} (hh : cap ≤ h) :
    bitSamples lw h =
      (List.replicate (lw - 1) false ++ List.replicate cap true) ++ (List.replicate (h - cap) true ++ [false]) := by
  obtain ⟨k, rfl⟩ : ∃ k, h = cap + k := ⟨h - cap, by omega⟩
  simp [bitSamples, ← List.replicate_append_replicate]

/-- A capped bit before bit 39 and the wait for low after it. -/
theorem tickRun_cappedBit_wait {s : State} {lw h : Nat} (hl : s.cfg.legal = true) (hs : s.st = .bitHigh)
    (hzero : s.tcnt = 0#16) (hbidx : s.bidx.toNat ≤ 38) (hle : lw ≤ s.cfg.tBitTo + 1) (hcap : s.cfg.tCap ≤ h) :
    tickRun (bitSamples lw h) s =
      if h ≤ s.cfg.tCap + s.cfg.tBitTo then { bitCaptured s s.cfg.tCap false with st := .bitHigh }
      else raiseFailure .bitTimeout (bitCaptured s s.cfg.tCap false) := by
  have hnext : (bitCaptured s s.cfg.tCap false).st = .bitLow := by
    have hne : s.bidx ≠ 39#6 := fun heq => by simp [heq] at hbidx
    simp [bitCaptured, afterMeasure_eq, hne]
  have hlow : bitLowTimeout s.cfg (s.bidx + 1#6) = s.cfg.tBitTo := by
    rw [bitLowTimeout, if_neg (by bv_omega)]
  have hwait := (beginsWait_bitLow (s := bitCaptured s s.cfg.tCap false) hl hnext rfl).tickRun_window
    (h - s.cfg.tCap) []
  rw [bitSamples_capped lw hcap, tickRun_append, tickRun_cappedBit hl hs hzero hle]
  refine hwait.trans ?_
  simp only [bitCaptured, hlow, Nat.sub_le_iff_le_add']
  rfl

/-- Settles O35: up to the ceiling all capped bits are one run; what follows is the next bit's wait for low, or CHECK,
which reads no sample. -/
theorem cappedBitWindow : Obligations.CappedBitWindow := by
  intro s lw h hl hs hzero _ _ hle hcap
  refine ⟨fun hbidx hh => ?_, fun hbidx hh => ?_, fun hbidx => ?_⟩
  · rw [tickRun_cappedBit_wait hl hs hzero hbidx hle hcap, if_pos hh]
    rfl
  · rw [tickRun_cappedBit_wait hl hs hzero hbidx hle hcap, if_neg (Nat.not_le.2 hh)]
    rfl
  · have hlast : s.bidx = 39#6 := BitVec.eq_of_toNat_eq hbidx
    have hcheck : (bitCaptured s s.cfg.tCap false).st = .check := by simp [bitCaptured, afterMeasure_eq, hlast]
    constructor
    · rw [tickRun_cappedBit hl hs hzero hle]
      simp [bitCaptured, afterMeasure_eq, hlast]
    · intro next
      simp only [tickRun_append, tickRun_cappedBit hl hs hzero hle, tickRun, tickStep_check _ hcheck]

end Sys2Proof.Machine
end

section
/-! Whole frames (41_decoder_sequence.md R153, 42_checksum_frame.md R170, R171) and whole transactions
(70_reset_and_hazards.md R252). -/

namespace Sys2Proof.Machine

/-! ### The bits that the shift register has taken in -/

theorem getLsbD_shiftIn (v : Frame) (b : Bool) {k : Nat} (hk : k < 40) :
    (shiftIn v b).getLsbD k = if k = 0 then b else v.getLsbD (k - 1) := by
  rw [shiftIn, getLsbD_cat]
  by_cases hzero : k = 0
  · simp [hzero]
  · have hin : k - 1 < 39 := by omega
    simp [hzero, hin]

/-- Of the bits shifted in, the last stands at 0; above them stands what was there before (R171). -/
theorem getLsbD_foldl_shiftIn (bits : List Bool) (v : Frame) {k : Nat} (hk : k < 40) :
    (bits.foldl shiftIn v).getLsbD k =
      if k < bits.length then bits.getD (bits.length - 1 - k) false else v.getLsbD (k - bits.length) := by
  induction bits using List.reverseRecOn generalizing k with
  | nil => simp
  | append_singleton bits b ih =>
    rw [List.foldl_append, List.foldl_cons, List.foldl_nil, getLsbD_shiftIn _ _ hk]
    split
    · next hzero => simp [hzero]
    · next hpos =>
      rw [ih (by omega)]
      have hidx : (bits ++ [b]).length - 1 - k = bits.length - 1 - (k - 1) := by simp; omega
      rw [hidx]
      by_cases hin : k - 1 < bits.length
      · rw [if_pos hin, if_pos (by simp; omega), List.getD_append _ _ _ _ (by omega)]
      · rw [if_neg hin, if_neg (by simp; omega), List.length_append, List.length_singleton, Nat.sub_sub, Nat.add_comm 1]

/-! ### The capture of forty bits -/

/-- The decision on a bit given by its low and high length: min(H, T_CAP) against T_THRESH (R118, R170). -/
def decodedBit (cfg : Params) (p : Nat × Nat) : Bool := decide (cfg.tThresh < min p.2 cfg.tCap)

/-- A bit before bit 39 within R153's windows. -/
def WithinWindows (cfg : Params) (p : Nat × Nat) : Prop :=
  1 ≤ p.1 ∧ p.1 ≤ cfg.tBitTo + 1 ∧ 1 ≤ p.2 ∧ p.2 ≤ cfg.tCap + cfg.tBitTo

/-- A bit before bit 39, capped or not, leads back to BIT_HIGH. -/
theorem tickRun_bit {s : State} {p : Nat × Nat} (hl : s.cfg.legal = true) (hs : s.st = .bitHigh)
    (hzero : s.tcnt = 0#16) (hbidx : s.bidx.toNat ≤ 38) (hp : WithinWindows s.cfg p) :
    tickRun (bitSamples p.1 p.2) s =
      { s with shreg := shiftIn s.shreg (decodedBit s.cfg p), bidx := s.bidx + 1#6 } := by
  obtain ⟨hlw, hle, hh, hmax⟩ := hp
  have hne : s.bidx ≠ 39#6 := fun heq => by simp [heq] at hbidx
  by_cases hcap : p.2 < s.cfg.tCap
  · rw [(bitWindow s p.1 p.2 hl hs hzero (by omega) hlw hh).1 hle hcap, decodedBit, Nat.min_eq_left hcap.le, if_neg hne,
      ← hs, ← hzero]
  · have hge : s.cfg.tCap ≤ p.2 := Nat.not_lt.1 hcap
    rw [(cappedBitWindow s p.1 p.2 hl hs hzero (by omega) hlw hle hge).1 hbidx hmax, decodedBit, Nat.min_eq_right hge,
      ← hs, ← hzero]

/-- Bits within R153's windows, up to bit 38, are taken in one after another. -/
theorem tickRun_frameSamples {s : State} {bits : List (Nat × Nat)} (hl : s.cfg.legal = true) (hs : s.st = .bitHigh)
    (hzero : s.tcnt = 0#16) (hbidx : s.bidx.toNat + bits.length ≤ 39) (hbits : ∀ p ∈ bits, WithinWindows s.cfg p) :
    tickRun (frameSamples bits) s =
      { s with
        shreg := (bits.map (decodedBit s.cfg)).foldl shiftIn s.shreg
        bidx := s.bidx + BitVec.ofNat 6 bits.length } := by
  induction bits generalizing s with
  | nil => simp [frameSamples, tickRun]
  | cons p bits ih =>
    rw [List.length_cons] at hbidx
    have hnext : (s.bidx + 1#6).toNat = s.bidx.toNat + 1 := by bv_omega
    rw [frameSamples, tickRun_append, tickRun_bit hl hs hzero (by omega) (hbits p (.head _))]
    have hrest := ih (s := { s with shreg := shiftIn s.shreg (decodedBit s.cfg p), bidx := s.bidx + 1#6 }) hl hs hzero
      (by dsimp only; omega) fun q hq => hbits q (.tail _ hq)
    have hcount : s.bidx + 1#6 + BitVec.ofNat 6 bits.length = s.bidx + BitVec.ofNat 6 (bits.length + 1) := by
      rw [BitVec.add_assoc, Nat.add_comm bits.length, BitVec.ofNat_add]
    simp only [hrest, hcount, List.map_cons, List.foldl_cons, List.length_cons]

/-- Bit 39 leads to CHECK, however long its high phase is. -/
theorem tickRun_lastBitSamples {s : State} {p : Nat × Nat} (hl : s.cfg.legal = true) (hs : s.st = .bitHigh)
    (hzero : s.tcnt = 0#16) (hbidx : s.bidx = 39#6) (hlw : 1 ≤ p.1) (hle : p.1 ≤ s.cfg.tBitTo + 1) (hh : 1 ≤ p.2) :
    tickRun (lastBitSamples s.cfg p.1 p.2) s =
      { s with st := .check, tcnt := 0#16, bidx := 40#6, shreg := shiftIn s.shreg (decodedBit s.cfg p) } := by
  have hlast : s.bidx.toNat = 39 := by rw [hbidx]; rfl
  rw [lastBitSamples]
  split
  · next hcap =>
    rw [(bitWindow s p.1 p.2 hl hs hzero hlast.le hlw hh).1 hle hcap, decodedBit, Nat.min_eq_left hcap.le, if_pos hbidx,
      hbidx]
    rfl
  · next hcap =>
    have hge : s.cfg.tCap ≤ p.2 := Nat.not_lt.1 hcap
    rw [((cappedBitWindow s p.1 p.2 hl hs hzero hlast.le hlw hle hge).2.2 hlast).1, decodedBit, Nat.min_eq_right hge]

/-- Settles O36: 39 bits lead back to BIT_HIGH and the last one to CHECK; the decisions are shifted in, first on top. -/
theorem fortyBitsAreCapturedInOrder : Obligations.FortyBitsAreCapturedInOrder := by
  intro s bits last hl hs hzero hbidx hlen hbits hlw hle hh
  have hframe := tickRun_frameSamples hl hs hzero (by simp [hbidx, hlen]) hbits
  rw [hlen, hbidx] at hframe
  have hlast := tickRun_lastBitSamples (p := last)
    (s := { s with shreg := (bits.map (decodedBit s.cfg)).foldl shiftIn s.shreg, bidx := 0#6 + BitVec.ofNat 6 39 })
    hl hs hzero rfl hlw hle hh
  refine ⟨((bits ++ [last]).map (decodedBit s.cfg)).foldl shiftIn s.shreg, ?_, fun i hi => ?_⟩
  · rw [tickRun_append, hframe, hlast]
    simp
  · have hzeroBit : decodedBit s.cfg (0, 0) = false := by simp [decodedBit]
    rw [getLsbD_foldl_shiftIn _ _ (by omega), if_pos (by simp [hlen]; omega), ← hzeroBit, List.getD_map]
    simp only [List.length_map, List.length_append, hlen, List.length_singleton, decodedBit]
    rw [show 39 + 1 - 1 - (39 - i) = i by omega]

/-! ### The ticks and the end of a transaction -/

theorem length_ackSamples (r l a : Nat) : (ackSamples r l a).length = (r + 1) + l + a := by
  simp [ackSamples]; omega

theorem length_bitSamples {lw : Nat} (hlw : 1 ≤ lw) (h : Nat) : (bitSamples lw h).length = lw + h := by
  simp [bitSamples]; omega

theorem length_frameSamples {bits : List (Nat × Nat)} (h : ∀ p ∈ bits, 1 ≤ p.1) :
    (frameSamples bits).length = (bits.map fun p => p.1 + p.2).sum := by
  induction bits with
  | nil => rfl
  | cons p bits ih =>
    rw [frameSamples, List.length_append, length_bitSamples (h p (.head _)), ih fun q hq => h q (.tail _ hq),
      List.map_cons, List.sum_cons]

/-- A capped last bit ends with its measurement, after `T_CAP` - 1 ticks of BIT_MEAS (70_reset_and_hazards.md R252). -/
theorem length_lastBitSamples {cfg : Params} {lw : Nat} (hl : cfg.legal = true) (hlw : 1 ≤ lw) (h : Nat) :
    (lastBitSamples cfg lw h).length = lw + min h (cfg.tCap - 1) := by
  have hlegal := (Params.legal_iff _).1 hl
  rw [lastBitSamples]
  split
  · rw [length_bitSamples hlw]; omega
  · simp; omega

/-- The tick of CHECK after the capture of the frame `v` (42_checksum_frame.md R173 to R175). -/
theorem phaseCheck_captured (s : State) (v : Frame) :
    phaseCheck { s with st := .check, tcnt := 0#16, bidx := 40#6, shreg := v } =
      if checksumOk v = true then
        { s with st := .done, outcome := .success, tcnt := 0#16, bidx := 40#6, shreg := v, resFrame := v }
      else { s with st := .failed, outcome := .checksumMismatch, tcnt := 0#16, bidx := 40#6, shreg := 0#40 } := rfl

/-- Settles O37: the start condition, the acknowledgement and the forty bits, phase by phase, and the tick of CHECK. -/
theorem transactionDecodesTheFrame : Obligations.TransactionDecodesTheFrame := by
  intro s start r l a bits last next hl hs hzero hbidx hstart hr hl1 hl2 ha1 ha2 hlen hbits hlw hle hh
  constructor
  · simp only [List.length_append, length_ackSamples, length_frameSamples fun p hp => (hbits p hp).1,
      length_lastBitSamples hl hlw, List.length_singleton, hstart]
    omega
  · obtain ⟨v, hcapture, hv⟩ := fortyBitsAreCapturedInOrder { s with st := .bitHigh, tcnt := 0#16 } bits last hl rfl rfl
      hbidx hlen hbits hlw hle hh
    have hack := (handshakeWindows { s with st := .awaitAck, tcnt := 0#16 } r l a hl rfl rfl hbidx hl1 ha1).1 hr hl2 ha2
    refine ⟨v, hv, ?_⟩
    rw [tickRun_append, startConditionIgnoresTheLine s start hl hs hzero hstart, tickRun_append, hack, tickRun_append,
      hcapture, tickRun, tickStep_check _ rfl]
    exact phaseCheck_captured s v

end Sys2Proof.Machine
end

section
/-! The frame and its checksum (42_checksum_frame.md): where the bits received end, the sum of R173 in numbers, what a tick
of CHECK makes of it, and what the test detects (R179). -/

namespace Sys2Proof.Machine

/-! ### The order of the bits -/

/-- Settles O30: after 40 shifts nothing is left of the old register, and of the 40 bits the last one stands at 0. -/
theorem firstBitEndsOnTop : Obligations.FirstBitEndsOnTop := by
  intro v bits hlen i hi
  rw [getLsbD_foldl_shiftIn _ _ (by omega), if_pos (by omega)]
  congr 1
  omega

/-! ### The sum in numbers -/

theorem payloadSum_toNat (v : Frame) :
    (payloadSum v).toNat =
      ((frameByte v 0).toNat + (frameByte v 1).toNat + (frameByte v 2).toNat + (frameByte v 3).toNat) % 256 := by
  simp [payloadSum, BitVec.toNat_add]

/-- R173: the sum of the payload bytes, taken mod 256, against byte 4. -/
theorem checksumOk_iff (v : Frame) :
    checksumOk v = true ↔
      ((frameByte v 0).toNat + (frameByte v 1).toNat + (frameByte v 2).toNat + (frameByte v 3).toNat) % 256 =
        (frameByte v 4).toNat := by
  rw [checksumOk, decide_eq_true_eq, ← BitVec.toNat_inj, payloadSum_toNat]

/-! ### The tick of CHECK -/

/-- Settles O29: a tick of CHECK takes the rule of R174 and R175, whose test is R173's sum in numbers. -/
theorem checkPublishesOrFails : Obligations.CheckPublishesOrFails := by
  intro s hr hs ht
  have hbusy : isBusy s.st = true := by rw [hs]; rfl
  have hframe := clockEdge_frame (portOf s).start (portOf s).rsel .release s
  rw [accepts_of_not (busy_facts hbusy).1] at hframe
  refine ⟨_, exec_ltu_next rfl rfl hr, hframe, clockEdge_busyTick hbusy ht ?_⟩
  calc seqTick (ltuStep .release s.tcnt s.sync2) s
    _ = phaseCheck s := by simp only [seqTick, hs]
    _ = _ := if_congr (checksumOk_iff s.shreg) rfl rfl

/-- A tick writes the result frame in CHECK alone, and there only at a match (R174, R178). -/
theorem tickStep_resFrame (x : Level) (s : State) :
    (tickStep x s).resFrame = s.resFrame ∨
      (s.st = .check ∧ checksumOk s.shreg = true ∧
        tickStep x s = { s with st := .done, outcome := .success, resFrame := s.shreg }) := by
  by_cases hs : s.st = .check
  · rw [tickStep_check x hs, phaseCheck]
    split
    · next hok => exact .inr ⟨hs, hok, rfl⟩
    · exact .inl rfl
  · refine .inl ?_
    rw [tickStep]
    split
    · exact (seqTick_effect _ s).frame.resFrame hs
    · rfl

/-- Settles O40: of what a step can do to the sequencer, reset and acceptance write 0 and only a tick can publish. -/
theorem onlyAMatchPublishes : Obligations.OnlyAMatchPublishes := by
  intro s t hstep
  cases hr : (portOf s).rst with
  | true =>
    rw [step_eq, clockCycle_reset hr] at hstep
    cases hstep
    exact .inr (.inl ⟨rfl, .inl rfl⟩)
  | false =>
    rcases step_sequencer hstep hr with
      ⟨hacc, hsame⟩ | ⟨_, _, hsame⟩ | ⟨_, _, _, hsame⟩ | ⟨_, _, _, hsame⟩ <;>
      obtain ⟨_, hst, _, _, _, houtcome, hresFrame⟩ := hsame
    · obtain ⟨hstart, hreads⟩ := (Bool.and_eq_true _ _).mp hacc
      exact .inr (.inl ⟨hresFrame, .inr ⟨hstart, (acceptsRead_iff _).1 hreads⟩⟩)
    · exact .inl hresFrame
    · rcases tickStep_resFrame s.sync2 s with hkept | ⟨hs, hok, htick⟩
      · exact .inl (hresFrame.trans hkept)
      · rw [htick] at hst houtcome hresFrame
        exact .inr (.inr ⟨hs, hok, hresFrame, houtcome, hst⟩)
    · exact .inl hresFrame

/-! ### What the host sees -/

/-- An empty result frame shows in no result register and not in FRAC_NZ (10_state.md R41, 20_memory.md R62). -/
theorem views_of_resFrame_zero {s : State} (h : s.resFrame = 0#40) :
    readingReg s = 0#32 ∧ frame0Reg s = 0#32 ∧ frame1Reg s = 0#32 ∧ fracNzFlag s = false := by
  simp only [readingReg, frame0Reg, frame1Reg, fracNzFlag, h]
  decide

/-- Settles O52: the step keeps the invariant, which leaves the result frame empty outside DONE and valid in it. -/
theorem shownFramesAreValid : Obligations.ShownFramesAreValid := by
  intro s t hinv hstep hshown
  have hinv' : Inv t := invariantIsKept s t hinv hstep
  by_cases hdone : t.st = .done
  · exact ⟨hinv'.reachableFacts.item5a.1 hdone, hdone, (checksumOk_iff _).1 (hinv'.result hdone).2⟩
  · obtain ⟨hreading, hframe0, hframe1, hfrac⟩ := views_of_resFrame_zero (hinv'.noResult hdone)
    simp [regView, hreading, hframe0, hframe1, hfrac] at hshown

/-! ### One bit in error -/

/-- The byte of a frame with only bit `k` set, `s` being the byte's lowest bit. -/
theorem extract_bit {s k : Nat} (hs : s + 8 ≤ 40) :
    (1#40 <<< k).extractLsb' s 8 = if s ≤ k ∧ k < s + 8 then 1#8 <<< (k - s) else 0#8 := by
  apply BitVec.eq_of_getLsbD_eq
  intro m hm
  rw [BitVec.getLsbD_extractLsb', ← BitVec.twoPow_eq, ← BitVec.twoPow_eq, BitVec.getLsbD_twoPow]
  split
  · rw [BitVec.getLsbD_twoPow, Bool.eq_iff_iff]; simp; omega
  · simp; omega

/-- A bit that stands in byte `i` flips there. -/
theorem frameByte_flip_in (v : Frame) {i k : Nat} (hi : i ≤ 4) (hlo : 32 - 8 * i ≤ k) (hhi : k < 40 - 8 * i) :
    frameByte (v ^^^ (1#40 <<< k)) i = frameByte v i ^^^ (1#8 <<< (k - (32 - 8 * i))) := by
  rw [frameByte, BitVec.extractLsb'_xor, extract_bit (by omega), if_pos (by omega), frameByte]

/-- A bit that stands in another byte leaves byte `i` as it is. -/
theorem frameByte_flip_out (v : Frame) {i k : Nat} (hi : i ≤ 4) (h : k < 32 - 8 * i ∨ 40 - 8 * i ≤ k) :
    frameByte (v ^^^ (1#40 <<< k)) i = frameByte v i := by
  rw [frameByte, BitVec.extractLsb'_xor, extract_bit (by omega), if_neg (by omega), BitVec.xor_zero, frameByte]

theorem xor_bit_ne (x : Byte) {j : Nat} (hj : j < 8) : x ^^^ (1#8 <<< j) ≠ x := by
  intro h
  have hbit := congrArg (BitVec.getLsbD · j) h
  simp [hj] at hbit

/-- One payload bit in error changes the sum: one summand changes and three stay. -/
theorem payloadSum_flip_ne (v : Frame) {k : Nat} (hlo : 8 ≤ k) (hhi : k < 40) :
    payloadSum (v ^^^ (1#40 <<< k)) ≠ payloadSum v := by
  intro h
  have hbyte : k < 16 ∨ (16 ≤ k ∧ k < 24) ∨ (24 ≤ k ∧ k < 32) ∨ 32 ≤ k := by omega
  rcases hbyte with hk | hk | hk | hk <;>
    simp (disch := omega) only [payloadSum, frameByte_flip_in, frameByte_flip_out, BitVec.add_left_inj,
      BitVec.add_right_inj] at h <;>
    exact xor_bit_ne _ (by omega) h

/-- Every frame one bit away from a valid one is rejected (R179). -/
theorem checksumOk_flip {v : Frame} {k : Nat} (hk : k < 40) (h : checksumOk v = true) :
    checksumOk (v ^^^ (1#40 <<< k)) = false := by
  rw [checksumOk, decide_eq_true_eq] at h
  rw [checksumOk, decide_eq_false_iff_not]
  by_cases hlo : k < 8
  · have hsum : payloadSum (v ^^^ (1#40 <<< k)) = payloadSum v := by
      simp (disch := omega) only [payloadSum, frameByte_flip_out]
    rw [hsum, h, frameByte_flip_in v (by omega) (by omega) (by omega)]
    exact (xor_bit_ne _ (by omega)).symm
  · rw [frameByte_flip_out v (by omega) (by omega), ← h]
    exact payloadSum_flip_ne v (by omega) hk

/-! ### Two errors that the sum does not see -/

/-- Raising a bit that is 0 adds its weight. -/
theorem xor_bit_of_clear {x : Byte} {j : Nat} (h : x.getLsbD j = false) : x ^^^ (1#8 <<< j) = x + 1#8 <<< j := by
  have hand : x &&& (1#8 <<< j) = 0#8 := by rw [← BitVec.twoPow_eq, BitVec.and_twoPow, h]; rfl
  rw [BitVec.add_eq_or_of_and_eq_zero _ _ hand]
  apply BitVec.eq_of_getLsbD_eq
  intro m hm
  have hnotBoth : (x.getLsbD m && (1#8 <<< j).getLsbD m) = false := by
    rw [← BitVec.getLsbD_and, hand, BitVec.getLsbD_zero]
  rw [BitVec.getLsbD_xor, BitVec.getLsbD_or]
  revert hnotBoth
  cases x.getLsbD m <;> cases (1#8 <<< j).getLsbD m <;> decide

/-- Lowering a bit that is 1 takes its weight away. -/
theorem xor_bit_add_of_set {x : Byte} {j : Nat} (h : x.getLsbD j = true) : (x ^^^ (1#8 <<< j)) + 1#8 <<< j = x := by
  have hj : j < 8 := BitVec.lt_of_getLsbD h
  have hclear : (x ^^^ (1#8 <<< j)).getLsbD j = false := by simp [h, hj]
  rw [← xor_bit_of_clear hclear, BitVec.xor_assoc, BitVec.xor_self, BitVec.xor_zero]

/-- The weight that byte 0 gains is the weight that byte 1 loses (R179). -/
theorem payloadSum_move_bit {v : Frame} {j : Nat} (hj : j < 8) (h0 : v.getLsbD (32 + j) = false)
    (h1 : v.getLsbD (24 + j) = true) :
    payloadSum (v ^^^ (1#40 <<< (32 + j)) ^^^ (1#40 <<< (24 + j))) = payloadSum v := by
  have hraised : frameByte v 0 ^^^ (1#8 <<< j) = frameByte v 0 + 1#8 <<< j :=
    xor_bit_of_clear (by simp [frameByte, hj, h0])
  have hlowered : (frameByte v 1 ^^^ (1#8 <<< j)) + 1#8 <<< j = frameByte v 1 :=
    xor_bit_add_of_set (by simp [frameByte, hj, h1])
  simp (disch := omega) only [payloadSum, frameByte_flip_in, frameByte_flip_out]
  simp only [Nat.mul_zero, Nat.mul_one, Nat.sub_zero, Nat.add_sub_cancel_left, Nat.reduceSub]
  rw [hraised, BitVec.add_assoc (frameByte v 0), BitVec.add_comm (1#8 <<< j), hlowered]

theorem checksumOk_move_bit {v : Frame} {j : Nat} (hj : j < 8) (h0 : v.getLsbD (32 + j) = false)
    (h1 : v.getLsbD (24 + j) = true) :
    checksumOk (v ^^^ (1#40 <<< (32 + j)) ^^^ (1#40 <<< (24 + j))) = checksumOk v := by
  rw [checksumOk, payloadSum_move_bit hj h0 h1, frameByte_flip_out _ (by omega) (by omega),
    frameByte_flip_out _ (by omega) (by omega), checksumOk]

/-- Settles O31: one flipped bit changes one side of R173's comparison and not the other, a bit moved from byte 1 to byte 0
changes neither side, and the named frames are computed. -/
theorem checksumDetectsSingleBitErrors : Obligations.ChecksumDetectsSingleBitErrors := by
  refine ⟨fun v k => checksumOk_flip, fun v j hj h0 h1 => ⟨payloadSum_move_bit hj h0 h1, checksumOk_move_bit hj h0 h1⟩, ?_⟩
  decide

end Sys2Proof.Machine
end

section
/-! The registers that the host reads (30_encoding.md R92 to R95; 43_host_interface.md R197 to R200, R203), and the cycle of
a register read. -/

namespace Sys2Proof.Machine

/-! ### The fields of the registers -/

theorem isBusy_iff (st : SeqState) :
    isBusy st = true ↔ st = .startLow ∨ st = .startHigh ∨ st = .awaitAck ∨ st = .ackLow ∨ st = .bitLow ∨
      st = .bitHigh ∨ st = .bitMeas ∨ st = .check := by
  cases st <;> simp [isBusy]

theorem isTerminal_iff (st : SeqState) : isTerminal st = true ↔ st = .done ∨ st = .failed := by
  cases st <;> simp [isTerminal]

theorem fracNzFlag_iff (s : State) :
    fracNzFlag s = true ↔ frameByte s.resFrame 1 ≠ 0#8 ∨ frameByte s.resFrame 3 ≠ 0#8 := by
  simp [fracNzFlag]

theorem statusReg_busy (s : State) : (statusReg s).getLsbD 0 = busyFlag s := by
  simp only [statusReg, getLsbD_cat]; simp

theorem statusReg_done (s : State) : (statusReg s).getLsbD 1 = doneFlag s := by
  simp only [statusReg, getLsbD_cat]; simp

theorem statusReg_fracNz (s : State) : (statusReg s).getLsbD 5 = fracNzFlag s := by
  simp only [statusReg, getLsbD_cat]; simp

/-- OUTCOME stands above BUSY and DONE and below FRAC_NZ. -/
theorem statusReg_outcome (s : State) : (statusReg s).extractLsb' 2 3 = outcomeCode s.outcome := by
  simp only [statusReg]
  rw [extract_cat_low _ _ _ (by decide), extract_cat_high _ _ _ (by decide), extract_cat_high _ _ _ (by decide)]
  exact cat_low _ (outcomeCode s.outcome) _

theorem statusReg_high (s : State) : (statusReg s).extractLsb' 6 26 = 0#26 := cat_high 0#26 _ _

/-- Without an outcome and a result STATUS is DONE and BUSY. -/
theorem statusReg_unresolved {s : State} (houtcome : s.outcome = .none) (hresult : s.resFrame = 0#40) :
    statusReg s = cat 32 0#30 (cat 2 (BitVec.ofBool (doneFlag s)) (BitVec.ofBool (busyFlag s))) := by
  obtain ⟨_, _, _, hfrac⟩ := views_of_resFrame_zero hresult
  rw [statusReg, houtcome, hfrac]
  cases doneFlag s <;> cases busyFlag s <;> rfl

/-- Humidity is the low byte, temperature the one above it (42_checksum_frame.md R176). -/
theorem readingReg_bytes (s : State) :
    (readingReg s).extractLsb' 0 8 = frameByte s.resFrame 0 ∧
      (readingReg s).extractLsb' 8 8 = frameByte s.resFrame 2 ∧ (readingReg s).extractLsb' 16 16 = 0#16 := by
  refine ⟨?_, ?_, cat_high 0#16 _ _⟩
  · rw [readingReg, extract_cat_low _ _ _ (by decide)]
    exact cat_low _ _ _
  · rw [readingReg, extract_cat_low _ _ _ (by decide)]
    exact cat_high _ _ _

theorem frame0Reg_bytes (s : State) :
    (frame0Reg s).extractLsb' 0 8 = frameByte s.resFrame 0 ∧
      (frame0Reg s).extractLsb' 8 8 = frameByte s.resFrame 1 ∧
      (frame0Reg s).extractLsb' 16 8 = frameByte s.resFrame 2 ∧
      (frame0Reg s).extractLsb' 24 8 = frameByte s.resFrame 3 := by
  refine ⟨cat_low _ _ _, ?_, ?_, ?_⟩
  · rw [frame0Reg, extract_cat_high _ _ _ (by decide)]
    exact cat_low _ _ _
  · rw [frame0Reg, extract_cat_high _ _ _ (by decide), extract_cat_high _ _ _ (by decide)]
    exact cat_low _ _ _
  · rw [frame0Reg, extract_cat_high _ _ _ (by decide), extract_cat_high _ _ _ (by decide)]
    exact cat_high _ _ _

theorem frame1Reg_bytes (s : State) :
    (frame1Reg s).extractLsb' 0 8 = frameByte s.resFrame 4 ∧ (frame1Reg s).extractLsb' 8 24 = 0#24 :=
  ⟨cat_low _ _ _, cat_high 0#24 _ _⟩

/-! ### What the registers read in a transaction and without SUCCESS -/

/-- A transaction under way has no outcome and no result. -/
theorem Inv.busy_unresolved {s : State} (h : Inv s) (hb : isBusy s.st = true) :
    s.outcome = .none ∧ s.resFrame = 0#40 ∧ doneFlag s = false := by
  obtain ⟨_, _, hterminal⟩ := busy_facts hb
  have hdone : s.st ≠ .done := fun hs => by simp [hs, isBusy] at hb
  have hfailed : s.st ≠ .failed := fun hs => by simp [hs, isBusy] at hb
  exact ⟨h.reachableFacts.item3.2 ⟨hdone, hfailed⟩, h.noResult hdone, hterminal⟩

theorem Inv.busy_status {s : State} (h : Inv s) (hb : isBusy s.st = true) : statusReg s = 1#32 := by
  obtain ⟨houtcome, hresult, hterminal⟩ := h.busy_unresolved hb
  have hbusy : busyFlag s = true := hb
  rw [statusReg_unresolved houtcome hresult, hterminal, hbusy]
  rfl

theorem Inv.views_without_success {s : State} (h : Inv s) (ho : s.outcome ≠ .success) :
    readingReg s = 0#32 ∧ frame0Reg s = 0#32 ∧ frame1Reg s = 0#32 := by
  obtain ⟨hreading, hframe0, hframe1, _⟩ := views_of_resFrame_zero (h.reachableFacts.item4 ho)
  exact ⟨hreading, hframe0, hframe1⟩

/-- Settles O10: a transaction under way has no outcome and no result, so BUSY is the only bit that is 1. -/
theorem busyShowsNothingElse : Obligations.BusyShowsNothingElse := by
  intro s h hb
  obtain ⟨_, hresult, _⟩ := h.busy_unresolved hb
  obtain ⟨hreading, hframe0, hframe1, _⟩ := views_of_resFrame_zero hresult
  exact ⟨h.busy_status hb, hreading, hframe0, hframe1⟩

/-! ### The cycle of a register read -/

/-- The edge of a cycle that accepts no READ, by the block alone. -/
theorem sequencerEdge_eq_blockEdge {start : Bool} {cmd : Instr} {s : State} (ha : accepts start s = false)
    (hcmd : currentCommand s = .ok cmd) : sequencerEdge start cmd s = blockEdge s := by
  simp only [sequencerEdge, blockEdge, ha, Bool.false_eq_true, if_false, isTick_iff, tickStep_of_command hcmd]

/-- With a command and no reset a register read completes and shows its register, and the block goes on by itself
(20_memory.md R61). -/
theorem registerRead_next {s : State} {cmd : Instr} (rsel : BitVec 2) (hr : (portOf s).rst = false)
    (hcmd : currentCommand s = .ok cmd) :
    ∃ t, clockCycle false rsel (currentCommand s) s = .next t ∧ t.rdata = regView s rsel ∧
      SameSequencer t (blockEdge s) ∧ EdgeFrame cmd false s t :=
  ⟨clockEdge false rsel cmd s, by rw [hcmd, clockCycle_ok hr], rfl,
    clockEdge_same (sequencerEdge_eq_blockEdge rfl hcmd), clockEdge_frame false rsel cmd s⟩

/-- Settles O5: the read port shows STATUS, whose fields are the flags and the outcome code. -/
theorem rdStatusShowsTheFlags : Obligations.RdStatusShowsTheFlags := by
  intro s cmd hr hcmd
  obtain ⟨t, hexec, hrdata, hsame, hframe⟩ := registerRead_next 0#2 hr hcmd
  have hstatus : t.rdata = statusReg s := hrdata
  refine ⟨t, hexec, ?_, ?_, ?_, ?_, ?_, ?_, ?_, hsame, hframe⟩ <;> rw [hstatus]
  · rw [statusReg_busy]; exact isBusy_iff s.st
  · rw [statusReg_done]; exact isTerminal_iff s.st
  · exact statusReg_outcome s
  · rw [statusReg_fracNz]; exact fracNzFlag_iff s
  · exact statusReg_high s
  · exact fun h hb => h.busy_status hb
  · intro hs houtcome hresult
    rw [statusReg_unresolved houtcome hresult, doneFlag, busyFlag, hs]
    rfl

/-- Settles O6: the read port shows READING. -/
theorem rdReadingShowsTheReading : Obligations.RdReadingShowsTheReading := by
  intro s cmd hr hcmd
  obtain ⟨t, hexec, hrdata, hsame, hframe⟩ := registerRead_next 1#2 hr hcmd
  have hreading : t.rdata = readingReg s := hrdata
  obtain ⟨hhumidity, htemperature, hhigh⟩ := readingReg_bytes s
  rw [← hreading] at hhumidity htemperature hhigh
  exact ⟨t, hexec, hhumidity, htemperature, hhigh, fun h ho => hreading.trans (h.views_without_success ho).1, hsame,
    hframe⟩

/-- Settles O7: the read port shows FRAME0. -/
theorem rdFrame0ShowsFourBytes : Obligations.RdFrame0ShowsFourBytes := by
  intro s cmd hr hcmd
  obtain ⟨t, hexec, hrdata, hsame, hframe⟩ := registerRead_next 2#2 hr hcmd
  have hframe0 : t.rdata = frame0Reg s := hrdata
  obtain ⟨hbyte0, hbyte1, hbyte2, hbyte3⟩ := frame0Reg_bytes s
  rw [← hframe0] at hbyte0 hbyte1 hbyte2 hbyte3
  exact ⟨t, hexec, hbyte0, hbyte1, hbyte2, hbyte3, fun h ho => hframe0.trans (h.views_without_success ho).2.1, hsame,
    hframe⟩

/-- Settles O8: the read port shows FRAME1. -/
theorem rdFrame1ShowsTheChecksum : Obligations.RdFrame1ShowsTheChecksum := by
  intro s cmd hr hcmd
  obtain ⟨t, hexec, hrdata, hsame, hframe⟩ := registerRead_next 3#2 hr hcmd
  have hframe1 : t.rdata = frame1Reg s := hrdata
  obtain ⟨hchecksum, hhigh⟩ := frame1Reg_bytes s
  rw [← hframe1] at hchecksum hhigh
  exact ⟨t, hexec, hchecksum, hhigh, fun h ho => hframe1.trans (h.views_without_success ho).2.2, hsame, hframe⟩

end Sys2Proof.Machine
end

section
/-! The READ of the host (43_host_interface.md R190, R191): accepted outside a transaction, else a register read. -/

namespace Sys2Proof.Machine

/-- Where a READ is accepted there is no transaction and the code is legal. -/
theorem accepting_facts {st : SeqState} (h : acceptsRead st = true) : isBusy st = false ∧ isIllegal st = false := by
  rcases (acceptsRead_iff st).1 h with rfl | rfl | rfl <;> exact ⟨rfl, rfl⟩

/-- A READ that is accepted completes and starts a transaction (43_host_interface.md R190). -/
theorem read_accepted {s : State} (rsel : BitVec 2) (hr : (portOf s).rst = false) (ha : acceptsRead s.st = true) :
    ∃ t, exec (.read rsel) s = .next t ∧ t.rdata = regView s rsel ∧ SameSequencer t (acceptRead s) ∧ t.presc = 0 ∧
      EdgeFrame .release true s t := by
  obtain ⟨hbusy, hlegal⟩ := accepting_facts ha
  have haccept : accepts true s = true := ha
  have hframe := clockEdge_frame true rsel .release s
  rw [haccept] at hframe
  refine ⟨clockEdge true rsel .release s, ?_, rfl, clockEdge_same (sequencerEdge_accept haccept), ?_, hframe⟩
  · rw [exec_read, currentCommand_release (.inl hbusy), clockCycle_ok hr]
  · simp [hlegal, haccept, prescNext]

/-- A READ that reset or an illegal state code keeps from acceptance leads to IDLE (30_encoding.md R81). -/
theorem read_not_accepted {s t : State} {rsel : BitVec 2} (hexec : exec (.read rsel) s = .next t)
    (h : (portOf s).rst = true ∨ isIllegal s.st = true) : t.st = .idle := by
  rw [exec_read] at hexec
  rcases clockCycle_cases true rsel (currentCommand s) s with ⟨_, hcycle⟩ | ⟨cmd, hr, _, hcycle⟩ | ⟨_, _, _, hcycle⟩ <;>
    rw [hcycle] at hexec <;> cases hexec
  · rfl
  · have hillegal : isIllegal s.st = true := h.resolve_left (by simp [hr])
    rw [clockEdge_illegal hillegal]

/-- Settles O3: what the accepted READ leaves are the registers of a new transaction, whose flags, views and pads are those
of START_LOW with no outcome and no result. -/
theorem readIsAcceptedWhenNotBusy : Obligations.ReadIsAcceptedWhenNotBusy := by
  refine ⟨fun s rsel hr hs => ?_, fun s t rsel => read_not_accepted⟩
  obtain ⟨t, hexec, hrdata, hsame, hpresc, hframe⟩ := read_accepted rsel hr ((acceptsRead_iff s.st).2 hs)
  obtain ⟨hcfg, hst, htcnt, hbidx, hshreg, houtcome, hresult⟩ := hsame
  simp only [acceptRead_cfg, acceptRead_st, acceptRead_tcnt, acceptRead_bidx, acceptRead_shreg, acceptRead_outcome,
    acceptRead_resFrame] at hcfg hst htcnt hbidx hshreg houtcome hresult
  have hbusy : busyFlag t = true := by rw [busyFlag, hst]; rfl
  have hdone : doneFlag t = false := by rw [doneFlag, hst]; rfl
  have hstatus : statusReg t = 1#32 := by rw [statusReg_unresolved houtcome hresult, hbusy, hdone]; rfl
  obtain ⟨hreading, hframe0, hframe1, hfrac⟩ := views_of_resFrame_zero hresult
  exact ⟨t, hexec, hst, htcnt, hbidx, hshreg, houtcome, hresult, hpresc, hrdata, hframe, hbusy, hdone, hfrac, hstatus,
    hreading, hframe0, hframe1, fun hl => pads_of_command (currentCommand_startLow (hcfg ▸ hl) hst)⟩

/-- Where no READ is accepted, `start` does nothing (43_host_interface.md R191). -/
theorem clockCycle_ignores_start {s : State} (h : acceptsRead s.st = false) (a b : Bool) (rsel : BitVec 2)
    (cmd : Except DecodeError Instr) : clockCycle a rsel cmd s = clockCycle b rsel cmd s := by
  have hedge : ∀ c, clockEdge a rsel c s = clockEdge b rsel c s := fun c => by
    simp only [clockEdge, sequencerEdge, accepts_of_not h]
  simp only [clockCycle, hedge]

/-- Settles O4: each register read is the cycle of the READ but for `start`. -/
theorem readIsIgnoredOtherwise : Obligations.ReadIsIgnoredOtherwise :=
  fun _ h => ⟨clockCycle_ignores_start h true false 0#2 _, clockCycle_ignores_start h true false 1#2 _,
    clockCycle_ignores_start h true false 2#2 _, clockCycle_ignores_start h true false 3#2 _⟩

end Sys2Proof.Machine
end

section
/-! What the host makes of STATUS and READING (43_host_interface.md R201, steps 5 and 6). -/

namespace Sys2Proof.Machine

theorem hostOutcome_success {s : State} (h : s.outcome = .success) :
    hostOutcome (statusReg s) (readingReg s) =
      some (.success { humidity := frameByte s.resFrame 0, temperature := frameByte s.resFrame 2 }) := by
  obtain ⟨hhumidity, htemperature, _⟩ := readingReg_bytes s
  rw [hostOutcome, statusOutcome, statusReg_outcome, h, hhumidity, htemperature]
  rfl

theorem hostOutcome_failure {s : State} {kind : FailureKind} (h : s.outcome = failureTag kind) :
    hostOutcome (statusReg s) (readingReg s) = some (.failure kind) := by
  rw [hostOutcome, statusOutcome, statusReg_outcome, h]
  cases kind <;> rfl

theorem hostOutcome_none {s : State} (h : s.outcome = .none) : hostOutcome (statusReg s) (readingReg s) = none := by
  rw [hostOutcome, statusOutcome, statusReg_outcome, h]
  rfl

/-- Settles O11: the invariant gives DONE the outcome SUCCESS with the captured frame, and every state that is not terminal
no outcome. -/
theorem hostReadsTheOutcome : Obligations.HostReadsTheOutcome := by
  intro s h
  refine ⟨fun hs => ?_, fun kind _ ho => hostOutcome_failure ho, fun hd => ?_⟩
  · rw [hostOutcome_success (h.reachableFacts.item5a.1 hs), (h.result hs).1]
  · refine hostOutcome_none (h.reachableFacts.item3.2 ⟨fun hs => ?_, fun hs => ?_⟩) <;>
      simp [doneFlag, hs, isTerminal] at hd

end Sys2Proof.Machine
end

section
/-! The ticks a transaction still takes (70_reset_and_hazards.md R252, R253): every tick of a busy state brings the end
nearer, and they are within the bound of R253. -/

namespace Sys2Proof.Machine

/-! ### The ticks of the capture -/

/-- The bit being captured and CHECK take at most this. -/
theorem le_captureTicks (cfg : Params) (b : Nat) : (cfg.tBitTo + 1) + (cfg.tCap - 1) + 1 ≤ captureTicks cfg b := by
  simp only [captureTicks]
  omega

/-- The later the bit, the fewer the ticks after it. -/
theorem captureTicks_antitone (cfg : Params) : Antitone (captureTicks cfg) := by
  intro a b h
  simp only [captureTicks]
  gcongr

/-- Every bit but the last takes a low phase, a measurement and a wait for low at most (R253). -/
theorem captureTicks_succ (cfg : Params) {b : Nat} (hb : b ≤ 38) :
    captureTicks cfg b = captureTicks cfg (b + 1) + ((cfg.tBitTo + 1) + (cfg.tCap - 1) + (cfg.tBitTo + 1)) := by
  obtain ⟨d, hd⟩ : ∃ d, 39 - b = d + 1 := ⟨38 - b, by omega⟩
  have hd' : 39 - (b + 1) = d := by omega
  simp only [captureTicks, hd, hd', Nat.succ_mul]
  omega

theorem bitLowTimeout_zero (cfg : Params) : bitLowTimeout cfg 0#6 = cfg.tBit0LowTo := rfl

theorem bitLowTimeout_of_ne {bidx : BitVec 6} (cfg : Params) (h : bidx ≠ 0#6) : bitLowTimeout cfg bidx = cfg.tBitTo :=
  if_neg h

/-! ### A tick brings the end nearer -/

/-- The ticks left are a matter of the sequencer's registers. -/
theorem SameSequencer.ticksLeft_eq {t u : State} (h : SameSequencer t u) : ticksLeft t = ticksLeft u := by
  obtain ⟨hcfg, hst, htcnt, hbidx, _⟩ := h
  simp only [ticksLeft, hcfg, hst, htcnt, hbidx]

theorem ticksLeft_quiet {s : State} (hs : isBusy s.st = false) : ticksLeft s = 0 := by
  unfold ticksLeft
  cases h : s.st <;> simp [h, isBusy] at hs ⊢

/-- A busy state has a tick to go. -/
theorem Inv.ticksLeft_pos {s : State} (h : Inv s) (hb : isBusy s.st = true) : 1 ≤ ticksLeft s := by
  have hcounter := h.counter
  have hcapture := le_captureTicks s.cfg s.bidx.toNat
  cases hs : s.st <;> simp only [counterOk, hs] at hcounter <;> simp only [ticksLeft, hs]
  case idle | done | failed => simp [hs, isBusy] at hb
  case check => exact Nat.le_refl 1
  all_goals omega

/-- A tick that counts takes one from the ticks left: in no state of the handshake or the capture is the counter past its
end. -/
theorem Inv.ticksLeft_count {s : State} (h : Inv s) (hs : inHandshake s.st ∨ inCapture s.st) :
    ticksLeft { s with tcnt := s.tcnt + 1#16 } < ticksLeft s := by
  have hlegal := (Params.legal_iff _).1 h.legal
  have hbound := bitLowTimeout_le s.bidx h.legal
  have hcapture := le_captureTicks s.cfg s.bidx.toNat
  have hcounter := h.counter
  rcases hs with (hs | hs | hs | hs) | (hs | hs | hs) <;> simp only [counterOk, hs] at hcounter <;>
    simp only [ticksLeft, hs] <;> rw [toNat_succ (by omega)] <;> omega

/-- The failure path ends the transaction. -/
theorem Inv.ticksLeft_fail {s : State} (h : Inv s) (hb : isBusy s.st = true) (kind : FailureKind) :
    ticksLeft (raiseFailure kind s) < ticksLeft s := by
  rw [ticksLeft_quiet rfl]
  exact h.ticksLeft_pos hb

/-- The tick that ends a measurement leaves the captures of the later bits, and at the ceiling the wait for low (R147). -/
theorem Inv.ticksLeft_takeBit {s : State} (h : Inv s) (hs : s.st = .bitMeas) (n : Ticks) (endedLow : Bool) :
    ticksLeft (phaseBitMeas (.meas n endedLow) s) < ticksLeft s := by
  have hcounter := h.counter
  have hcapture := le_captureTicks s.cfg s.bidx.toNat
  obtain ⟨hbidx, _⟩ := h.captured (.inr (.inr (.inr hs)))
  have hsucc : (s.bidx + 1#6).toNat = s.bidx.toNat + 1 := by
    rw [BitVec.toNat_add]; simp; omega
  have hne : s.bidx + 1#6 ≠ 0#6 := fun hzero => by simp [hzero] at hsucc
  simp only [counterOk, hs] at hcounter
  rcases afterMeasure_cases endedLow hbidx with ⟨hst, _⟩ | ⟨hst | hst, hlt⟩ <;>
    simp only [ticksLeft, phaseBitMeas, hst, hs, hsucc, bitLowTimeout_of_ne _ hne, BitVec.toNat_ofNat]
  · omega
  · have hlater := captureTicks_succ s.cfg hlt
    omega
  · have hlater := captureTicks_succ s.cfg hlt
    omega

theorem Inv.ticksLeft_driveTick {s dest : State} {d : Ticks} (h : Inv s) (hs : inHandshake s.st)
    (hdest : ticksLeft dest < ticksLeft s) :
    ticksLeft (if s.tcnt + 1#16 = d then dest else { s with tcnt := s.tcnt + 1#16 }) < ticksLeft s := by
  split
  · exact hdest
  · exact h.ticksLeft_count (.inl hs)

theorem Inv.ticksLeft_waitTick {s dest : State} {x level : Level} {t : Ticks} (kind : FailureKind) (h : Inv s)
    (hs : inHandshake s.st ∨ inCapture s.st) (hb : isBusy s.st = true) (hdest : ticksLeft dest < ticksLeft s) :
    ticksLeft (if x = level then dest
      else if s.tcnt = t then raiseFailure kind s
      else { s with tcnt := s.tcnt + 1#16 }) < ticksLeft s := by
  split
  · exact hdest
  · split
    · exact h.ticksLeft_fail hb kind
    · exact h.ticksLeft_count hs

/-- Every tick of a busy state brings the end nearer, whatever is sampled (60_exceptions.md R212). -/
theorem Inv.ticksLeft_tickStep {s : State} (h : Inv s) (hb : isBusy s.st = true) (x : Level) :
    ticksLeft (tickStep x s) < ticksLeft s := by
  have hcounter := h.counter
  cases hs : s.st with
  | startLow =>
    rw [tickStep_startLow x h.legal hs]
    refine h.ticksLeft_driveTick (.inl hs) ?_
    simp only [counterOk, hs] at hcounter
    simp only [ticksLeft, hs, BitVec.toNat_ofNat]
    omega
  | startHigh =>
    rw [tickStep_startHigh x h.legal hs]
    refine h.ticksLeft_driveTick (.inr (.inl hs)) ?_
    simp only [counterOk, hs] at hcounter
    simp only [ticksLeft, hs, BitVec.toNat_ofNat]
    omega
  | awaitAck =>
    rw [tickStep_awaitAck x hs]
    refine h.ticksLeft_waitTick _ (.inl (.inr (.inr (.inl hs)))) hb ?_
    simp only [counterOk, hs] at hcounter
    simp only [ticksLeft, hs, BitVec.toNat_ofNat]
    omega
  | ackLow =>
    rw [tickStep_ackLow x hs]
    have hhs : inHandshake s.st := .inr (.inr (.inr hs))
    refine h.ticksLeft_waitTick _ (.inl hhs) hb ?_
    obtain ⟨hbidx, _⟩ := h.start (.inr hhs)
    simp only [counterOk, hs] at hcounter
    simp only [ticksLeft, hs, hbidx, bitLowTimeout_zero, BitVec.toNat_ofNat, Nat.zero_mod]
    omega
  | bitLow =>
    rw [tickStep_bitLow x hs]
    refine h.ticksLeft_waitTick _ (.inr (.inl hs)) hb ?_
    simp only [counterOk, hs] at hcounter
    simp only [ticksLeft, hs, BitVec.toNat_ofNat]
    omega
  | bitHigh =>
    rw [tickStep_bitHigh x hs]
    refine h.ticksLeft_waitTick _ (.inr (.inr (.inl hs))) hb ?_
    have hcapture := le_captureTicks s.cfg s.bidx.toNat
    simp only [counterOk, hs] at hcounter
    simp only [ticksLeft, hs, BitVec.toNat_ofNat]
    omega
  | bitMeas =>
    rw [tickStep_bitMeas x h.legal hs]
    split
    · exact h.ticksLeft_takeBit hs _ _
    · split
      · exact h.ticksLeft_takeBit hs _ _
      · exact h.ticksLeft_count (.inr (.inr (.inr hs)))
  | check =>
    rw [tickStep_check x hs, phaseCheck]
    split
    · rw [ticksLeft_quiet rfl]
      exact h.ticksLeft_pos hb
    · exact h.ticksLeft_fail hb _
  | idle | done | failed | illegal => simp [hs, isBusy] at hb

/-! ### The bound -/

/-- The ticks left are within the bound of R253. -/
theorem ticksLeft_le (s : State) : ticksLeft s ≤ worstCase s.cfg := by
  have hworst : worstCase s.cfg = s.cfg.tStartLow + s.cfg.tRelHigh + 2 * (s.cfg.tAckTo + 1) + (s.cfg.tBit0LowTo + 1)
      + captureTicks s.cfg 0 := by
    simp only [worstCase, captureTicks]
    omega
  have hcapture := captureTicks_antitone s.cfg (Nat.zero_le s.bidx.toNat)
  cases hs : s.st <;> simp only [ticksLeft, hs, hworst]
  case bitLow =>
    by_cases hzero : s.bidx = 0#6
    · rw [hzero, bitLowTimeout_zero]
      simp only [BitVec.toNat_ofNat, Nat.zero_mod]
      omega
    · have hpos : 1 ≤ s.bidx.toNat := Nat.one_le_iff_ne_zero.2 fun hz => hzero (BitVec.eq_of_toNat_eq hz)
      have hfirst := captureTicks_succ s.cfg (Nat.zero_le 38)
      have hlater : captureTicks s.cfg s.bidx.toNat ≤ captureTicks s.cfg (0 + 1) := captureTicks_antitone s.cfg hpos
      rw [bitLowTimeout_of_ne _ hzero]
      omega
  all_goals omega

end Sys2Proof.Machine
end

section
/-! The host's loops over STATUS (30_encoding.md R98, 43_host_interface.md R201): each poll is a cycle, the cycles that a
transaction still takes fall with every poll, and so a loop with polls enough for R253's bound ends. -/

namespace Sys2Proof.Machine

/-! ### Cycles without reset -/

/-- At least `n` cycles have listed port values, and no listed one is a reset. -/
def NoResetFor (n : Nat) (s : State) : Prop := n ≤ s.inputs.length ∧ ∀ p ∈ s.inputs, p.rst = false

theorem NoResetFor.mono {m n : Nat} {s : State} (h : NoResetFor n s) (hmn : m ≤ n) : NoResetFor m s :=
  ⟨hmn.trans h.1, h.2⟩

theorem NoResetFor.head {n : Nat} {s : State} (h : NoResetFor (n + 1) s) : (portOf s).rst = false := by
  obtain ⟨hlen, hrst⟩ := h
  cases hin : s.inputs with
  | nil => simp [hin] at hlen
  | cons p ps =>
    have hp : portOf s = p := by simp [portOf, hin]
    rw [hp]
    exact hrst p (by simp [hin])

theorem NoResetFor.tail {n : Nat} {s t : State} (h : NoResetFor (n + 1) s) (ht : t.inputs = s.inputs.tail) :
    NoResetFor n t := by
  obtain ⟨hlen, hrst⟩ := h
  rw [NoResetFor, ht, List.length_tail]
  exact ⟨by omega, fun p hp => hrst p (List.mem_of_mem_tail hp)⟩

/-! ### The block by itself -/

theorem SameSequencer.trans {s t u : State} (hst : SameSequencer s t) (htu : SameSequencer t u) : SameSequencer s u := by
  obtain ⟨hcfg, hs, htcnt, hbidx, hshreg, houtcome, hresult⟩ := hst
  obtain ⟨hcfg', hs', htcnt', hbidx', hshreg', houtcome', hresult'⟩ := htu
  exact ⟨hcfg.trans hcfg', hs.trans hs', htcnt.trans htcnt', hbidx.trans hbidx', hshreg.trans hshreg',
    houtcome.trans houtcome', hresult.trans hresult'⟩

theorem SameSequencer.cfg_eq {s t : State} (h : SameSequencer s t) : s.cfg = t.cfg := h.1

theorem SameSequencer.st_eq {s t : State} (h : SameSequencer s t) : s.st = t.st := h.2.1

theorem Inv.edge {s : State} (h : Inv s) : Inv (blockEdge s) := by
  simp only [blockEdge, h.legalCode, Bool.false_eq_true, if_false]
  split
  · exact h.tick _
  · exact h

/-- Without a transaction the sequencer of a state of the invariant holds (41_decoder_sequence.md R149). -/
theorem Inv.blockEdge_quiet {s : State} (h : Inv s) (hb : isBusy s.st = false) : blockEdge s = s := by
  simp [blockEdge, h.legalCode, tickStep_quiet _ hb]

/-- A tick leads to IDLE from IDLE only. -/
theorem seqTick_ne_idle {s : State} (r : LtuResult) (h : s.st ≠ .idle) : (seqTick r s).st ≠ .idle := by
  have hmeas : ∀ bidx endedLow, afterMeasure bidx endedLow ≠ .idle := fun bidx endedLow => by
    unfold afterMeasure
    cases endedLow <;> split <;> decide
  unfold seqTick
  cases hs : s.st
  case check => simp only [phaseCheck]; split <;> simp
  case idle => exact absurd hs h
  all_goals
    cases r <;> simp [phaseStartLow, phaseStartHigh, phaseAwaitAck, phaseAckLow, phaseBitLow, phaseBitHigh, phaseBitMeas,
      hs, hmeas]

theorem Inv.blockEdge_ne_idle {s : State} (h : Inv s) (hs : s.st ≠ .idle) : (blockEdge s).st ≠ .idle := by
  simp only [blockEdge, h.legalCode, Bool.false_eq_true, if_false, tickStep]
  split
  · split
    · exact seqTick_ne_idle _ hs
    · exact hs
  · exact hs

/-! ### The cycles that a transaction still takes -/

/-- CLK_PER_US cycles for each tick, less those since the last one (10_state.md R37); 0 without a transaction. -/
def cyclesLeft (s : State) : Nat := ticksLeft s * s.cfg.clkPerUs - s.presc

theorem cyclesLeft_le (s : State) : cyclesLeft s ≤ worstCase s.cfg * s.cfg.clkPerUs :=
  (Nat.sub_le _ _).trans (Nat.mul_le_mul_right _ (ticksLeft_le s))

/-- Every cycle of a transaction brings its end nearer: a tick has one tick less to go, and between ticks the prescaler
counts. -/
theorem Inv.cyclesLeft_lt {s t : State} (h : Inv s) (hb : isBusy s.st = true) (hcfg : t.cfg = s.cfg)
    (hsame : SameSequencer t (blockEdge s)) (hpresc : t.presc = prescNext false s) :
    cyclesLeft t < cyclesLeft s := by
  have hlt := h.presc
  have hpos := h.ticksLeft_pos hb
  have hmul : s.cfg.clkPerUs ≤ ticksLeft s * s.cfg.clkPerUs := Nat.le_mul_of_pos_left _ hpos
  rw [cyclesLeft, cyclesLeft, hcfg, hpresc, prescNext_eq false h.presc, hsame.ticksLeft_eq]
  simp only [blockEdge, h.legalCode, Bool.false_eq_true, if_false]
  split
  · next htick =>
    have hfewer := h.ticksLeft_tickStep hb s.sync2
    have htake : (ticksLeft (tickStep s.sync2 s) + 1) * s.cfg.clkPerUs ≤ ticksLeft s * s.cfg.clkPerUs :=
      Nat.mul_le_mul_right _ hfewer
    rw [Nat.succ_mul] at htake
    omega
  · rw [Nat.mod_eq_of_lt (by omega)]
    omega

/-! ### One register read -/

/-- The cycle of a register read takes `s` to `t`: it shows the register, the block goes on by itself, and the invariant
is kept. -/
structure ReadsRegister (rsel : BitVec 2) (s t : State) : Prop where
  next : hostCycle false rsel s = .next t
  rdata : t.rdata = regView s rsel
  same : SameSequencer t (blockEdge s)
  cfg : t.cfg = s.cfg
  presc : t.presc = prescNext false s
  inputs : t.inputs = s.inputs.tail
  inv : Inv t

theorem Inv.readsRegister {s : State} (h : Inv s) (hr : (portOf s).rst = false) (rsel : BitVec 2) :
    ∃ t, ReadsRegister rsel s t := by
  obtain ⟨cmd, hcmd⟩ : ∃ cmd, currentCommand s = .ok cmd := ⟨_, (commandTable s h.legal).1⟩
  have hsame : SameSequencer (clockEdge false rsel cmd s) (blockEdge s) :=
    clockEdge_same (sequencerEdge_eq_blockEdge rfl hcmd)
  have hcfg : (clockEdge false rsel cmd s).cfg = s.cfg := (clockEdge_frame false rsel cmd s).1
  have hpresc : (clockEdge false rsel cmd s).presc = prescNext false s := (clockEdge_goes_on h.legalCode).1
  exact ⟨clockEdge false rsel cmd s,
    { next := by rw [hostCycle, hcmd, clockCycle_ok hr]
      rdata := rfl
      same := hsame
      cfg := hcfg
      presc := hpresc
      inputs := rfl
      inv := h.edge.of_same hsame (by rw [hcfg, hpresc]; exact prescNext_lt false h.presc) }⟩

/-- Without a transaction a register read leaves the sequencer as it is. -/
theorem ReadsRegister.same_of_quiet {rsel : BitVec 2} {s t : State} (hread : ReadsRegister rsel s t) (h : Inv s)
    (hb : isBusy s.st = false) : SameSequencer t s := by
  have hsame := hread.same
  rwa [h.blockEdge_quiet hb] at hsame

/-! ### The loops -/

/-- In `s` the polled bit tells whether a transaction is under way: BUSY = 0 tells it in every state, DONE = 1 in every
state but IDLE. -/
def PollsForEnd (bit : Nat) (want : Bool) (s : State) : Prop :=
  (bit = 0 ∧ want = false) ∨ (bit = 1 ∧ want = true ∧ s.st ≠ .idle)

theorem PollsForEnd.status_iff {bit : Nat} {want : Bool} {s : State} (hpoll : PollsForEnd bit want s) (h : Inv s) :
    (statusReg s).getLsbD bit = want ↔ isBusy s.st = false := by
  rcases hpoll with ⟨rfl, rfl⟩ | ⟨rfl, rfl, hs⟩
  · rw [statusReg_busy, busyFlag]
  · rw [statusReg_done, doneFlag]
    have hlegal := h.legalCode
    cases hst : s.st <;> simp [hst, isTerminal, isBusy, isIllegal] at hs hlegal ⊢

theorem PollsForEnd.keep {bit : Nat} {want : Bool} {s t : State} (hpoll : PollsForEnd bit want s) (h : Inv s)
    (hsame : SameSequencer t (blockEdge s)) : PollsForEnd bit want t := by
  refine hpoll.imp_right fun ⟨hbit, hwant, hs⟩ => ⟨hbit, hwant, ?_⟩
  rw [hsame.st_eq]
  exact h.blockEdge_ne_idle hs

theorem pollStatus_succ {s t : State} (bit : Nat) (want : Bool) (fuel : Nat) (hread : ReadsRegister 0#2 s t) :
    pollStatus bit want (fuel + 1) s =
      if (statusReg s).getLsbD bit = want then some t else pollStatus bit want fuel t := by
  have hnext : execRdStatus s = .next t := hread.next
  have hrdata : t.rdata = statusReg s := hread.rdata
  simp only [pollStatus, hnext, hrdata]

/-- A loop with more polls than the cycles left ends, in a state that is not busy. -/
theorem pollStatus_ends {bit : Nat} {want : Bool} {fuel n : Nat} {s : State} (h : Inv s)
    (hpoll : PollsForEnd bit want s) (hn : NoResetFor (fuel + n) s) (hfuel : cyclesLeft s < fuel) :
    ∃ t, pollStatus bit want fuel s = some t ∧ Inv t ∧ isBusy t.st = false ∧ PollsForEnd bit want t ∧ t.cfg = s.cfg ∧
      NoResetFor n t := by
  induction fuel generalizing s with
  | zero => exact absurd hfuel (Nat.not_lt_zero _)
  | succ fuel ih =>
    rw [Nat.add_right_comm] at hn
    obtain ⟨t, hread⟩ := h.readsRegister hn.head 0#2
    have hnt : NoResetFor (fuel + n) t := hn.tail hread.inputs
    have hpollt : PollsForEnd bit want t := hpoll.keep h hread.same
    rw [pollStatus_succ bit want fuel hread]
    by_cases hb : isBusy s.st = false
    · have hst : t.st = s.st := (hread.same_of_quiet h hb).st_eq
      exact ⟨t, if_pos ((hpoll.status_iff h).2 hb), hread.inv, by rwa [hst], hpollt, hread.cfg,
        hnt.mono (Nat.le_add_left _ _)⟩
    · have hfewer := h.cyclesLeft_lt (by simpa using hb) hread.cfg hread.same hread.presc
      obtain ⟨u, hu, hinv, hquiet, hpollu, hcfg, hnu⟩ := ih hread.inv hpollt hnt (by omega)
      exact ⟨u, by rw [if_neg (mt (hpoll.status_iff h).1 hb), hu], hinv, hquiet, hpollu, hcfg.trans hread.cfg, hnu⟩

end Sys2Proof.Machine
end

section
/-! The host's `read()`, all its steps (43_host_interface.md R201). -/

namespace Sys2Proof.Machine

/-- A READ in a state of the invariant that is not busy starts a transaction. -/
theorem Inv.read_starts {s : State} (h : Inv s) (hr : (portOf s).rst = false) (hb : isBusy s.st = false)
    (rsel : BitVec 2) :
    ∃ t, exec (.read rsel) s = .next t ∧ SameSequencer t (acceptRead s) ∧ Inv t ∧ t.inputs = s.inputs.tail := by
  have haccepts : acceptsRead s.st = true := by
    have hlegal := h.legalCode
    cases hs : s.st <;> simp [hs, isBusy, isIllegal, acceptsRead, isTerminal] at hb hlegal ⊢
  obtain ⟨t, hexec, _, hsame, hpresc, hcfg, _, _, _, hinputs, _⟩ := read_accepted rsel hr haccepts
  refine ⟨t, hexec, hsame, (inv_acceptRead h.legal).of_same hsame ?_, hinputs⟩
  rw [hpresc, hcfg]
  exact ((Params.legal_iff _).1 h.legal).1

/-- What the host makes of the registers of an ended transaction is its outcome (R201, steps 5 and 6). -/
theorem Inv.hostOutcome_ended {s : State} (h : Inv s) (hd : doneFlag s = true) :
    ∃ o, hostOutcome (statusReg s) (readingReg s) = some o ∧
      ((s.st = .done ∧ o = .success { humidity := frameByte s.shreg 0, temperature := frameByte s.shreg 2 }) ∨
        ∃ kind, s.st = .failed ∧ s.outcome = failureTag kind ∧ o = .failure kind) := by
  obtain ⟨hsuccess, hfailure, _⟩ := hostReadsTheOutcome s h
  rcases h.outcome_cases with ⟨hs, _⟩ | ⟨hs, kind, ho⟩ | ⟨hdone, hfailed, _⟩
  · exact ⟨_, hsuccess hs, .inl ⟨hs, rfl⟩⟩
  · exact ⟨_, hfailure kind hs ho, .inr ⟨kind, hs, ho, rfl⟩⟩
  · exact absurd ((isTerminal_iff _).1 hd) (by simp [hdone, hfailed])

/-- STATUS and READING are a matter of the sequencer's registers. -/
theorem SameSequencer.views_eq {t u : State} (h : SameSequencer t u) :
    statusReg t = statusReg u ∧ readingReg t = readingReg u := by
  obtain ⟨_, hst, _, _, _, houtcome, hresult⟩ := h
  simp only [statusReg, readingReg, fracNzFlag, doneFlag, busyFlag, hst, houtcome, hresult, and_self]

/-- The last two register reads of `read()` find an ended transaction as it is (R201, steps 4 to 6). -/
theorem Inv.host_collects {s : State} (h : Inv s) (hd : doneFlag s = true) (hn : NoResetFor 2 s) :
    ∃ t u o, execRdStatus s = .next t ∧ execRdReading t = .next u ∧ hostOutcome t.rdata u.rdata = some o ∧
      SameSequencer u s ∧ Inv u ∧
      ((u.st = .done ∧ o = .success { humidity := frameByte u.shreg 0, temperature := frameByte u.shreg 2 }) ∨
        ∃ kind, u.st = .failed ∧ u.outcome = failureTag kind ∧ o = .failure kind) := by
  have hquiet : isBusy s.st = false := by rcases (isTerminal_iff s.st).1 hd with hs | hs <;> rw [hs] <;> rfl
  obtain ⟨t, hstatus⟩ := h.readsRegister hn.head 0#2
  have hts : SameSequencer t s := hstatus.same_of_quiet h hquiet
  obtain ⟨u, hreading⟩ := hstatus.inv.readsRegister (hn.tail hstatus.inputs).head 1#2
  have hut : SameSequencer u t := hreading.same_of_quiet hstatus.inv (by rwa [hts.st_eq])
  have hus : SameSequencer u s := hut.trans hts
  obtain ⟨o, ho, hcases⟩ := hreading.inv.hostOutcome_ended (by rwa [doneFlag, hus.st_eq])
  have hstatusWord : t.rdata = statusReg u := hstatus.rdata.trans hus.views_eq.1.symm
  have hreadingWord : u.rdata = readingReg u := hreading.rdata.trans hut.views_eq.2.symm
  exact ⟨t, u, o, hstatus.next, hreading.next, by rw [hstatusWord, hreadingWord, ho], hus, hreading.inv, hcases⟩

/-- `read()` as its steps, each of which completes. -/
theorem hostRead_eq {fuel : Nat} {s s1 s2 s3 s4 u : State} {o : DecodeOutcome}
    (hwait : pollStatus 0 false fuel s = some s1) (hread : execRead 0#2 s1 = .next s2)
    (hdone : waitDone fuel s2 = some s3) (hstatus : execRdStatus s3 = .next s4) (hreading : execRdReading s4 = .next u)
    (ho : hostOutcome s4.rdata u.rdata = some o) : hostRead fuel s = some (o, u) := by
  simp only [hostRead, hwait, hread, hdone, hstatus, hreading, ho, Option.map_some]

/-- Settles O12: the first loop ends without a transaction, the READ starts one, the second loop ends when that is done,
and the last two reads find it as it ended. -/
theorem hostReadReportsTheTransaction : Obligations.HostReadReportsTheTransaction := by
  intro s fuel h hfuel hlen hrst
  have hn : NoResetFor (fuel + (fuel + 3)) s := ⟨by omega, hrst⟩
  obtain ⟨s1, hwait, hinv1, hquiet1, _, hcfg1, hn1⟩ :=
    pollStatus_ends h (.inl ⟨rfl, rfl⟩) hn ((Nat.lt_succ_of_le (cyclesLeft_le s)).trans_le hfuel)
  obtain ⟨s2, hread, hsame2, hinv2, hinputs2⟩ := hinv1.read_starts hn1.head hquiet1 0#2
  obtain ⟨hcfg2, hst2, _, _, _, houtcome2, hresult2⟩ := hsame2
  have hcfg : s2.cfg = s.cfg := hcfg2.trans hcfg1
  have hpoll2 : PollsForEnd 1 true s2 := .inr ⟨rfl, rfl, by simp [hst2]⟩
  have hleft2 : cyclesLeft s2 < fuel := (Nat.lt_succ_of_le (cyclesLeft_le s2)).trans_le (by rwa [hcfg])
  obtain ⟨s3, hdone, hinv3, hquiet3, hpoll3, hcfg3, hn3⟩ := pollStatus_ends hinv2 hpoll2 (hn1.tail hinputs2) hleft2
  have hended : doneFlag s3 = true := (statusReg_done s3).symm.trans ((hpoll3.status_iff hinv3).2 hquiet3)
  obtain ⟨s4, u, o, hstatus, hreading, ho, hsame, hinv, hcases⟩ := hinv3.host_collects hended hn3
  exact ⟨s1, s2, s3, o, u, hwait, hquiet1, hread, hst2, houtcome2, hresult2, hdone, hended,
    hostRead_eq hwait hread hdone hstatus hreading ho, hsame, hinv, hsame.cfg_eq.trans (hcfg3.trans hcfg), hcases⟩

end Sys2Proof.Machine
end

section
/-! The exceptions of the block (60_exceptions.md): the one way into FAILED (R213), the conditions that lead there
(R211), and that the block neither stops nor stalls (R212). -/

namespace Sys2Proof.Machine

/-! ### The failure path -/

theorem failureTag_inj {a b : FailureKind} : failureTag a = failureTag b ↔ a = b := by
  cases a <;> cases b <;> simp [failureTag]

theorem raiseFailure_inj {a b : FailureKind} {s : State} : raiseFailure a s = raiseFailure b s ↔ a = b :=
  ⟨fun h => failureTag_inj.1 (congrArg State.outcome h), congrArg (raiseFailure · s)⟩

theorem ne_raiseFailure {kind : FailureKind} {s u : State} (h : u.st ≠ .failed) : u ≠ raiseFailure kind s :=
  fun heq => h (congrArg State.st heq)

theorem tickStep_effect (x : Level) (s : State) : TickEffect s (tickStep x s) := by
  rw [tickStep]
  split
  · exact seqTick_effect _ s
  · exact .hold s

/-- Of the effects of a tick only the failure path enters FAILED. -/
theorem TickEffect.eq_raiseFailure {s u : State} (h : TickEffect s u) (hs : s.st ≠ .failed) (hu : u.st = .failed) :
    ∃ kind, u = raiseFailure kind s := by
  cases h with
  | count c => exact absurd hu hs
  | advance st c hst hc => exact absurd hu hst
  | fail kind hbusy => exact ⟨kind, rfl⟩
  | takeBit n endedLow hmeas => exact absurd hu (afterMeasure_ne _ _).2
  | publish hcheck => cases hu

/-- A step enters FAILED at a tick without reset, by the failure path of that tick (R213). -/
theorem step_into_failed {s t : State} (hstep : step s = .next t) (hs : s.st ≠ .failed) (ht : t.st = .failed) :
    (portOf s).rst = false ∧ s.presc = s.cfg.clkPerUs - 1 ∧
      ∃ kind, tickStep s.sync2 s = raiseFailure kind s ∧ SameSequencer t (raiseFailure kind s) := by
  cases hr : (portOf s).rst with
  | true =>
    rw [step_eq, clockCycle_reset hr] at hstep
    cases hstep
    cases ht
  | false =>
    rcases step_sequencer hstep hr with ⟨_, hsame⟩ | ⟨_, _, hsame⟩ | ⟨_, _, htick, hsame⟩ | ⟨_, _, _, hsame⟩
    · cases hsame.st_eq.symm.trans ht
    · cases hsame.st_eq.symm.trans ht
    · obtain ⟨kind, hkind⟩ := (tickStep_effect s.sync2 s).eq_raiseFailure hs (hsame.st_eq.symm.trans ht)
      exact ⟨rfl, htick, kind, hkind, hkind ▸ hsame⟩
    · exact absurd (hsame.st_eq.symm.trans ht) hs

/-- Settles O38: the step is the failure path of a tick, and the command of FAILED is RELEASE. -/
theorem everyFailureTakesTheFailurePath : Obligations.EveryFailureTakesTheFailurePath := by
  intro s t hstep hs ht
  obtain ⟨_, _, kind, _, _, _, htcnt, hbidx, hshreg, houtcome, hresFrame⟩ := step_into_failed hstep hs ht
  have hbusy : isBusy t.st = false := by rw [ht]; rfl
  have hdone : isTerminal t.st = true := by rw [ht]; rfl
  have hline : lineOe t = false := (pads_of_command (currentCommand_release (.inl hbusy))).1
  exact ⟨⟨kind, houtcome⟩, htcnt, hshreg, hbidx, hresFrame, hline, hbusy, hdone⟩

/-! ### The causes -/

/-- The condition that R211's table gives each kind of failure, at a tick that samples `x`. -/
def FailureCause (x : Level) (s : State) : FailureKind → Prop
  | .handshakeTimeout =>
    s.tcnt.toNat = s.cfg.tAckTo ∧ (s.st = .awaitAck ∧ x = true ∨ s.st = .ackLow ∧ x = false)
  | .bitTimeout =>
    s.st = .bitLow ∧ s.tcnt.toNat = bitLowTimeout s.cfg s.bidx ∧ x = true ∨
      s.st = .bitHigh ∧ s.tcnt.toNat = s.cfg.tBitTo ∧ x = false
  | .checksumMismatch => s.st = .check ∧ checksumOk s.shreg = false

/-- Only a state that waits for the line, and CHECK, can fail. -/
theorem FailureCause.state {x : Level} {s : State} {kind : FailureKind} (h : FailureCause x s kind) :
    s.st = .awaitAck ∨ s.st = .ackLow ∨ s.st = .bitLow ∨ s.st = .bitHigh ∨ s.st = .check := by
  cases kind with
  | handshakeTimeout => obtain ⟨_, ⟨hst, _⟩ | ⟨hst, _⟩⟩ := h <;> simp [hst]
  | bitTimeout => obtain ⟨hst, _⟩ | ⟨hst, _⟩ := h <;> simp [hst]
  | checksumMismatch => simp [h.1]

theorem FailureCause.busy {x : Level} {s : State} {kind : FailureKind} (h : FailureCause x s kind) :
    isBusy s.st = true := by
  rcases h.state with hst | hst | hst | hst | hst <;> rw [hst] <;> rfl

/-- The tick of a WAIT fails when its bound is reached without the level: success beats timeout (R116, R117). -/
theorem waitTick_fails_iff {s dest : State} {x level : Level} {p : Nat} {raised kind : FailureKind} (hp : p ≤ 65535)
    (hs : s.st ≠ .failed) (hdest : dest.st ≠ .failed) :
    (if x = level then dest
      else if s.tcnt = tickArg p then raiseFailure raised s
      else { s with tcnt := s.tcnt + 1#16 }) = raiseFailure kind s ↔
      raised = kind ∧ s.tcnt.toNat = p ∧ x = !level := by
  rw [← eq_tickArg_iff hp, Bool.eq_not]
  split
  · next hx => simp [hx, ne_raiseFailure hdest]
  · next hx =>
    split
    · next hbound => simp [hx, hbound, raiseFailure_inj]
    · next hbound => simpa [hbound] using ne_raiseFailure (u := { s with tcnt := s.tcnt + 1#16 }) hs

/-- Driving the line and measuring it cannot fail, and outside a transaction there is nothing to fail (R211). -/
theorem tickStep_ne_failed {s : State} (x : Level) (hl : s.cfg.legal = true) (hs : s.st ≠ .failed)
    (h : s.st = .startLow ∨ s.st = .startHigh ∨ s.st = .bitMeas ∨ isBusy s.st = false) :
    (tickStep x s).st ≠ .failed := by
  rcases h with hst | hst | hst | hquiet
  · rw [tickStep_startLow x hl hst]
    split <;> simp [hst]
  · rw [tickStep_startHigh x hl hst]
    split <;> simp [hst]
  · rw [tickStep_bitMeas x hl hst]
    split
    · exact (afterMeasure_ne s.bidx true).2
    · split
      · exact (afterMeasure_ne s.bidx false).2
      · exact hs
  · rwa [tickStep_quiet x hquiet]

/-- A tick takes the failure path of each kind exactly under the condition of R211's table. -/
theorem tickStep_fails_iff {s : State} (x : Level) (kind : FailureKind) (hl : s.cfg.legal = true)
    (hs : s.st ≠ .failed) :
    tickStep x s = raiseFailure kind s ↔ FailureCause x s kind := by
  have hlegal := (Params.legal_iff _).1 hl
  have hbit := bitLowTimeout_le s.bidx hl
  cases hst : s.st with
  | awaitAck =>
    rw [tickStep_awaitAck x hst, waitTick_fails_iff (by omega) hs (by simp)]
    cases kind <;> simp [FailureCause, hst]
  | ackLow =>
    rw [tickStep_ackLow x hst, waitTick_fails_iff (by omega) hs (by simp)]
    cases kind <;> simp [FailureCause, hst]
  | bitLow =>
    rw [tickStep_bitLow x hst, waitTick_fails_iff (by omega) hs (by simp)]
    cases kind <;> simp [FailureCause, hst]
  | bitHigh =>
    rw [tickStep_bitHigh x hst, waitTick_fails_iff (by omega) hs (by simp)]
    cases kind <;> simp [FailureCause, hst]
  | check =>
    rw [tickStep_check x hst, phaseCheck]
    split
    · next hok => cases kind <;> simp [FailureCause, hst, hok, raiseFailure]
    · next hok => cases kind <;> simp [FailureCause, hst, hok, raiseFailure_inj]
  | failed => exact absurd hst hs
  | startLow | startHigh | bitMeas | idle | done | illegal =>
    have hne : (tickStep x s).st ≠ .failed := tickStep_ne_failed x hl hs (by simp [hst, isBusy])
    exact iff_of_false (ne_raiseFailure hne) (fun hcause => by simpa [hst] using hcause.state)

/-- A step enters FAILED with each kind exactly at a tick without reset that meets R211's condition. -/
theorem step_fails_iff {s t : State} (kind : FailureKind) (hl : s.cfg.legal = true) (hstep : step s = .next t)
    (hs : s.st ≠ .failed) :
    t.st = .failed ∧ t.outcome = failureTag kind ↔
      (portOf s).rst = false ∧ s.presc = s.cfg.clkPerUs - 1 ∧ FailureCause s.sync2 s kind := by
  constructor
  · rintro ⟨ht, houtcome⟩
    obtain ⟨hr, htick, raised, hraised, _, _, _, _, _, hrecorded, _⟩ := step_into_failed hstep hs ht
    obtain rfl : raised = kind := failureTag_inj.1 (hrecorded.symm.trans houtcome)
    exact ⟨hr, htick, (tickStep_fails_iff s.sync2 raised hl hs).1 hraised⟩
  · rintro ⟨hr, htick, hcause⟩
    obtain ⟨hreads, hlegal, _⟩ := busy_facts hcause.busy
    have hsame := (cyclesRefineTheTickMachine s t hstep hr hlegal (by simp [hreads])).1 htick
    rw [(tickStep_fails_iff s.sync2 kind hl hs).2 hcause] at hsame
    obtain ⟨_, hst, _, _, _, houtcome, _⟩ := hsame
    exact ⟨hst, houtcome⟩

/-- Settles O39: R211's table kind by kind, and the failure path records one of its kinds. -/
theorem failureCauses : Obligations.FailureCauses := by
  intro s t hl hstep hs
  refine ⟨step_fails_iff .handshakeTimeout hl hstep hs, step_fails_iff .bitTimeout hl hstep hs,
    step_fails_iff .checksumMismatch hl hstep hs, fun ht => ?_⟩
  obtain ⟨⟨kind, houtcome⟩, _⟩ := everyFailureTakesTheFailurePath s t hstep hs ht
  rw [houtcome]
  cases kind <;> simp [failureTag]

/-! ### No cycle stops or stalls the block -/

theorem step_cfg {s t : State} (h : step s = .next t) : t.cfg = s.cfg := by
  rcases step_next h with ⟨_, rfl⟩ | ⟨cmd, _, _, rfl⟩
  · rfl
  · exact (clockEdge_frame _ _ cmd s).1

/-- With legal parameters every state has a command, so every cycle completes. -/
theorem step_completes {s : State} (hl : s.cfg.legal = true) : ∃ t, step s = .next t := by
  rw [step_eq, (commandTable s hl).1]
  cases hr : (portOf s).rst with
  | true => exact ⟨_, clockCycle_reset hr⟩
  | false => exact ⟨_, clockCycle_ok hr⟩

/-- Settles O51, by induction on the length of the run: a state of the invariant completes its cycle and keeps the
invariant. -/
theorem blockNeverStops : Obligations.BlockNeverStops := by
  intro s n h
  induction n generalizing s with
  | zero => exact ⟨s, rfl, h, rfl⟩
  | succ n ih =>
    obtain ⟨u, hstep⟩ := step_completes h.legal
    obtain ⟨t, hrun, hinv, hcfg⟩ := ih u (invariantIsKept s u h hstep)
    exact ⟨t, (run_succ n hstep).trans hrun, hinv, hcfg.trans (step_cfg hstep)⟩

/-- Settles O53: a busy state takes no READ, so its step is a tick of the tick-level machine or holds the sequencer. -/
theorem everyTickMakesProgress : Obligations.EveryTickMakesProgress := by
  intro s t h hb hr hstep
  obtain ⟨hreads, hlegal, _⟩ := busy_facts hb
  obtain ⟨htick, hhold⟩ := cyclesRefineTheTickMachine s t hstep hr hlegal (by simp [hreads])
  refine ⟨fun hpresc => ?_, fun hpresc => (hhold hpresc).ticksLeft_eq⟩
  rw [(htick hpresc).ticksLeft_eq]
  exact h.ticksLeft_tickStep hb s.sync2

end Sys2Proof.Machine
end

section
/-! The end of a transaction, in cycles (70_reset_and_hazards.md R253, 60_exceptions.md R212): with every cycle but a
reset edge the cycles left fall, so a run as long as those ends it. -/

namespace Sys2Proof.Machine

/-! ### Runs that end a transaction -/

/-- After `n` cycles from `s` the transaction has ended, or a reset came in one of them. -/
def EndsOrResets (n : Nat) (s : State) : Prop :=
  ∃ u, Host.Core.run core n s = .next u ∧
    (u.st = .done ∨ u.st = .failed ∨ ∃ m v, m < n ∧ Host.Core.run core m s = .next v ∧ (portOf v).rst = true)

theorem endsOrResets_zero {s : State} (h : s.st = .done ∨ s.st = .failed) : EndsOrResets 0 s :=
  ⟨s, rfl, h.imp_right .inl⟩

theorem endsOrResets_one {s : State} (hr : (portOf s).rst = true) : EndsOrResets 1 s := by
  have hstep : step s = .next (resetEdge (portOf s).rsel s) := (step_eq s).trans (clockCycle_reset hr)
  exact ⟨_, run_succ 0 hstep, .inr (.inr ⟨0, s, Nat.one_pos, rfl, hr⟩)⟩

theorem EndsOrResets.of_step {n : Nat} {s t : State} (h : EndsOrResets n t) (hstep : step s = .next t) :
    EndsOrResets (n + 1) s := by
  obtain ⟨u, hrun, hend⟩ := h
  refine ⟨u, (run_succ n hstep).trans hrun, hend.imp_right (.imp_right ?_)⟩
  rintro ⟨m, v, hm, hv, hr⟩
  exact ⟨m + 1, v, Nat.succ_lt_succ hm, (run_succ m hstep).trans hv, hr⟩

/-! ### Every transaction ends -/

theorem busy_or_ended {st : SeqState} (hlegal : isIllegal st = false) (hs : st ≠ .idle) :
    isBusy st = true ∨ st = .done ∨ st = .failed := by
  cases st <;> simp [isBusy, isIllegal] at hlegal hs ⊢

theorem Inv.cyclesLeft_pos {s : State} (h : Inv s) (hb : isBusy s.st = true) : 1 ≤ cyclesLeft s :=
  Nat.sub_pos_of_lt (h.presc.trans_le (Nat.le_mul_of_pos_left _ (h.ticksLeft_pos hb)))

/-- A busy state takes no READ, so its step is the cycle of a register read (43_host_interface.md R191). -/
theorem step_of_busy {s : State} (hb : isBusy s.st = true) : step s = hostCycle false (portOf s).rsel s := by
  rw [step_eq, hostCycle, clockCycle_ignores_start (busy_facts hb).1 _ false]

/-- Once a READ was accepted, a run within the cycles left ends the transaction or meets a reset. The induction is on the
cycles left. -/
theorem Inv.ends {s : State} (h : Inv s) (hs : s.st ≠ .idle) : ∃ n, n ≤ cyclesLeft s ∧ EndsOrResets n s := by
  induction hleft : cyclesLeft s using Nat.strong_induction_on generalizing s with
  | _ left ih =>
    subst hleft
    rcases busy_or_ended h.legalCode hs with hb | hended
    · cases hr : (portOf s).rst with
      | true => exact ⟨1, h.cyclesLeft_pos hb, endsOrResets_one hr⟩
      | false =>
        obtain ⟨t, hread⟩ := h.readsRegister hr (portOf s).rsel
        have hfewer := h.cyclesLeft_lt hb hread.cfg hread.same hread.presc
        have ht : t.st ≠ .idle := by rw [hread.same.st_eq]; exact h.blockEdge_ne_idle hs
        obtain ⟨n, hn, hends⟩ := ih _ hfewer hread.inv ht rfl
        exact ⟨n + 1, hn.trans_lt hfewer, hends.of_step ((step_of_busy hb).trans hread.next)⟩
    · exact ⟨0, Nat.zero_le _, endsOrResets_zero hended⟩

/-- An acceptance has the whole bound of R253 ahead of it. -/
theorem ticksLeft_acceptRead (s : State) : ticksLeft (acceptRead s) = worstCase s.cfg := by
  simp only [ticksLeft, worstCase, captureTicks, acceptRead_st, acceptRead_cfg, acceptRead_tcnt, BitVec.toNat_ofNat]
  omega

/-- The bound of R253 in ticks is the same for every CLK_PER_US. -/
theorem worstCase_default (clk : Nat) : worstCase { Params.default with clkPerUs := clk } = 30703 := by
  simp only [worstCase, Params.default]

/-- Settles O54: the accepted READ leaves START_LOW with the bound of R253 to go, and the transaction ends within the
cycles left. -/
theorem transactionEndsWithinTheBound : Obligations.TransactionEndsWithinTheBound := by
  refine ⟨fun s rsel h ha hr => ?_, worstCase_default⟩
  obtain ⟨t, hexec, hsame, hinv, _⟩ := h.read_starts hr (accepting_facts ha).1 rsel
  have hnotIdle : t.st ≠ .idle := by simp [hsame.st_eq]
  obtain ⟨n, hn, u, hrun, hend⟩ := hinv.ends hnotIdle
  have hbound := cyclesLeft_le t
  rw [hsame.cfg_eq, acceptRead_cfg] at hbound
  exact ⟨t, hexec, hsame.ticksLeft_eq.trans (ticksLeft_acceptRead s), n, u, hn.trans hbound, hrun, hend⟩

end Sys2Proof.Machine
end

section
/-! Reset (70_reset_and_hazards.md R240, R241): whatever the instruction, its cycle is a reset edge when `rst` = 1. -/

namespace Sys2Proof.Machine

/-- The meaning of every instruction is one clock cycle (30_encoding.md R98). -/
theorem exec_eq_clockCycle (i : Instr) (s : State) : ∃ start rsel cmd, exec i s = clockCycle start rsel cmd s := by
  cases hformat : i.format with
  | ltu => exact ⟨_, _, _, exec_ltu hformat s⟩
  | host => cases i <;> cases hformat <;> exact ⟨_, _, _, rfl⟩

/-- With reset every instruction runs a reset edge, in which it decides no more than the sampled `rdata`. -/
theorem exec_reset {s : State} (i : Instr) (hr : (portOf s).rst = true) :
    ∃ rsel, exec i s = .next (resetEdge rsel s) := by
  obtain ⟨start, rsel, cmd, hexec⟩ := exec_eq_clockCycle i s
  exact ⟨rsel, hexec.trans (clockCycle_reset hr)⟩

/-- The step of a cycle with reset is that of any reset edge but for `rsel`. -/
theorem step_reset {s : State} (rsel : BitVec 2) (hr : (portOf s).rst = true) :
    step s = .next { resetEdge rsel s with rdata := regView s (portOf s).rsel } := by
  rw [step_eq, clockCycle_reset hr, resetEdge_rsel]

/-- After a reset edge the host sees STATUS 0. -/
theorem statusReg_resetEdge (rsel : BitVec 2) (s : State) : statusReg (resetEdge rsel s) = 0#32 := by
  have hbusy : busyFlag (resetEdge rsel s) = false := rfl
  have hdone : doneFlag (resetEdge rsel s) = false := rfl
  rw [statusReg_unresolved rfl rfl, hbusy, hdone]
  rfl

/-- Settles O2: the cycle is a reset edge, after which IDLE performs RELEASE. -/
theorem resetBeatsEverything : Obligations.ResetBeatsEverything := by
  intro i s hr
  obtain ⟨rsel, hexec⟩ := exec_reset i hr
  have hrelease : currentCommand (resetEdge rsel s) = .ok .release := currentCommand_release (.inl rfl)
  obtain ⟨hoe, hout⟩ := pads_of_command hrelease
  exact ⟨resetEdge rsel s, hexec, step_reset rsel hr, rfl, rfl, rfl, rfl, rfl, rfl, rfl, rfl, rfl, rfl, rfl, rfl,
    hoe, hout, rfl, rfl, statusReg_resetEdge rsel s⟩

end Sys2Proof.Machine
end
